-- ==== Sys2Proof/Word.lean ====
section
/-! DEFINITION. The word types of the block (spec/00_scope.md R6, R9): every value is an unsigned
bit pattern of the width R6 gives, bit 0 the least significant. -/

namespace Sys2Proof

/-- `MODW` bits: a modulus, an operand half, a remainder (R6). -/
abbrev Word64 := BitVec 64

/-- `AW` and `MUW` bits: a dividend, the reduction constant (R6). -/
abbrev Word128 := BitVec 128

/-- `PW` bits: the product `a * MU` (R6). -/
abbrev Word256 := BitVec 256

/-- `REQW` bits: a request word (R6, R41). -/
abbrev ReqWord := BitVec 130

/-- `RSPW` bits: a response word (R6, R50). -/
abbrev RspWord := BitVec 66

/-- The `op` field of a request word (R41). -/
abbrev OpCode := BitVec 2

end Sys2Proof
end

