-- ==== Sys2Proof/Assembly.lean ====
section
/-! DEFINITION. The lines of a command stream as abstract syntax (spec/30_encoding.md R53 to R55).
Operands are the unsigned integer literals of R53, so they are natural numbers here, and
WellFormed.lean holds the ranges. Reading the characters of a line is left out.
DESIGN CHOICE, log entry 11: safe. -/

namespace Sys2Proof

/-- One line: the two commands (R53), the raw request word (R55), and the two pseudo-instructions (R54). -/
inductive AsmLine where
  /-- `BUILD <m>` -/
  | build (m : Nat)
  /-- `REDUCE <a_hi>, <a_lo>` -/
  | reduce (aHi aLo : Nat)
  /-- `.req <op>, <opnd0>, <opnd1>` -/
  | req (op opnd0 opnd1 : Nat)
  /-- `REDUCE128 <a>` -/
  | reduce128 (a : Nat)
  /-- `MODMUL <x>, <y>`: the host multiplies, the block reduces. -/
  | modmul (x y : Nat)
deriving DecidableEq, Repr

end Sys2Proof
end

