-- ==== Sys2Proof/Syntax.lean ====
section
/-! DEFINITION. The command set (spec/30_encoding.md R42, R47; spec/opcode_table.json): one constructor
per row of the table. -/

namespace Sys2Proof

/-- A command as its request word spells it. Every field of the word is kept, the ignored ones
too (R45), so that decoding drops no bit of a word (DESIGN CHOICE, log entry 10, safe: R47 writes
`BUILD(m)` and `RESERVED`; no meaning receives an ignored field). -/
inductive Instr where
  /-- Row `BUILD`: `BUILD m`, `op = 0b01`; `ignored` is `opnd0`, `m` is `opnd1` (R43, R56). -/
  | build (ignored m : Word64)
  /-- Row `REDUCE`: `REDUCE aHi, aLo`, `op = 0b10`; `aHi` is `opnd0`, `aLo` is `opnd1` (R44, R65). -/
  | reduce (aHi aLo : Word64)
  /-- Row `RESERVED_00`: `.req 0b00, opnd0, opnd1`; both operands are ignored (R45, R46). -/
  | reserved00 (opnd0 opnd1 : Word64)
  /-- Row `RESERVED_11`: `.req 0b11, opnd0, opnd1`; both operands are ignored (R45, R46). -/
  | reserved11 (opnd0 opnd1 : Word64)
deriving DecidableEq, Repr

end Sys2Proof
end

