-- ==== Sys2Proof/WellFormed.lean ====
section
/-! DEFINITION. Well-formedness. Every operand of `Instr` is a bit vector of its field's width, and
R46 says every request word has a meaning, so every term of `Instr` is well formed; the ranges the
spec does check are those of an assembler line (spec/30_encoding.md R53 to R55). -/

namespace Sys2Proof

/-- No term of `Instr` is ill formed: the fields cannot be out of range, and no field is
"should be zero" (R45, R46). -/
def Instr.wellFormed : Instr → Bool
  | .build _ _ => true
  | .reduce _ _ => true
  | .reserved00 _ _ => true
  | .reserved11 _ _ => true

/-- The literal ranges of an assembler line: operands below `2^64` (R53), a 2-bit `op` (R55), a
dividend below `2^128` and factors below `2^64` (R54). -/
def AsmLine.wellFormed : AsmLine → Bool
  | .build m => m < 2 ^ 64
  | .reduce aHi aLo => aHi < 2 ^ 64 && aLo < 2 ^ 64
  | .req op opnd0 opnd1 => op < 4 && opnd0 < 2 ^ 64 && opnd1 < 2 ^ 64
  | .reduce128 a => a < 2 ^ 128
  | .modmul x y => x < 2 ^ 64 && y < 2 ^ 64

end Sys2Proof
end

