-- ==== Sys2Proof/Decode.lean ====
section
/-! DEFINITION. Request-word fields, the decoder and the encoder (spec/30_encoding.md R41 to R49). -/

namespace Sys2Proof

/-- `REQ[129:128]` (R41). -/
def reqOp (w : ReqWord) : OpCode := w.extractLsb' 128 2

/-- `REQ[127:64]` (R41). -/
def reqOpnd0 (w : ReqWord) : Word64 := w.extractLsb' 64 64

/-- `REQ[63:0]` (R41). -/
def reqOpnd1 (w : ReqWord) : Word64 := w.extractLsb' 0 64

/-- `REQ = {op, opnd0, opnd1}` (R41). -/
def mkReq (op : OpCode) (opnd0 opnd1 : Word64) : ReqWord := op ++ opnd0 ++ opnd1

/-- `0b01` (R42). -/
def opBuild : OpCode := 0b01#2

/-- `0b10` (R42). -/
def opReduce : OpCode := 0b10#2

/-- `0b00`, reserved (R42). -/
def opReserved00 : OpCode := 0b00#2

/-- `0b11`, reserved (R42). -/
def opReserved11 : OpCode := 0b11#2

/-- `Decode` of R47: total on every 130-bit word. -/
def decode (w : ReqWord) : Instr :=
  if reqOp w = opBuild then .build (reqOpnd0 w) (reqOpnd1 w)
  else if reqOp w = opReduce then .reduce (reqOpnd0 w) (reqOpnd1 w)
  else if reqOp w = opReserved00 then .reserved00 (reqOpnd0 w) (reqOpnd1 w)
  else .reserved11 (reqOpnd0 w) (reqOpnd1 w)

/-- The `op` code of a command (R42). -/
def Instr.op : Instr → OpCode
  | .build _ _ => opBuild
  | .reduce _ _ => opReduce
  | .reserved00 _ _ => opReserved00
  | .reserved11 _ _ => opReserved11

/-- The request word of a command (R41 to R44). -/
def encode : Instr → ReqWord
  | .build ignored m => mkReq opBuild ignored m
  | .reduce aHi aLo => mkReq opReduce aHi aLo
  | .reserved00 opnd0 opnd1 => mkReq opReserved00 opnd0 opnd1
  | .reserved11 opnd0 opnd1 => mkReq opReserved11 opnd0 opnd1

/-- Why a number is no request word. -/
inductive DecodeReject where
  /-- It has a bit above bit 129: a request word has exactly 130 bits (R49). Raised by `decodeNumber`
  only; the port cannot carry such a word. Safe. -/
  | widerThanRequestWord
deriving DecidableEq, Repr

/-- Decoding of any number: the 130-bit words decode by R47, a wider number is rejected by name.
DESIGN CHOICE, log entry 12: safe. -/
def decodeNumber (n : Nat) : Except DecodeReject Instr :=
  if n < 2 ^ 130 then .ok (decode (BitVec.ofNat 130 n)) else .error .widerThanRequestWord

/-- The table's numbering is the spec's: bit 0 is bit 0 of the request word. Bits at and above `nbits`
are 0. -/
def decodeTableWord (nbits w : Nat) : Option Instr :=
  match decodeNumber (w % 2 ^ nbits) with
  | .ok i => some i
  | .error _ => none

end Sys2Proof
end

