-- ==== Sys2Proof/Config.lean ====
section
/-! DEFINITION. What an implementation of the block fixes: the three OPEN latencies of
spec/00_scope.md R6 and spec/70_reset_and_hazards.md R107. The spec leaves nothing else open. -/

namespace Sys2Proof

/-- `LAT_BUILD`, `LAT_REDUCE`, `LAT_ILLEGAL`: clock edges from acceptance to the response, each a
fixed integer `>= 1` (R6, R107). The bounds are carried by the value, so no latency of 0 can be
written down. R107 makes the three arguments of a cycle-level model: State holds them. -/
structure Latencies where
  /-- `LAT_BUILD` -/
  build : Nat
  /-- `LAT_REDUCE` -/
  reduce : Nat
  /-- `LAT_ILLEGAL` -/
  illegal : Nat
  build_pos : 1 ≤ build := by decide
  reduce_pos : 1 ≤ reduce := by decide
  illegal_pos : 1 ≤ illegal := by decide
deriving DecidableEq, Repr

/-- The latencies `State.reset` carries. DESIGN CHOICE (log entry 4): R6 leaves the three OPEN; this is
the least value it allows, chosen so that a run from `State.reset` can be evaluated. No statement
rests on it: every statement is about all values of the field `lat`. Unsafe for whoever proves
a claim about a run's length from `State.reset` alone. -/
def Config.resetLatencies : Latencies := { build := 1, reduce := 1, illegal := 1 }

end Sys2Proof
end

