-- ==== Sys2Proof/Machine/State.lean ====
section
/-! DEFINITION. The state of the block and of the host that drives it (spec/10_state.md R15, R23, R25,
R28), as plain data, and the reasons a step can stop. -/

namespace Sys2Proof.Machine

/-- `FSM` (R23). -/
inductive Fsm where
  /-- ready to accept a command -/
  | idle
  /-- a command was accepted, its response is not yet presented -/
  | busy
  /-- a response is presented and waits for `rsp_ready` -/
  | resp
deriving DecidableEq, Repr

/-- The input ports as sampled at one rising edge of `clk` (R25, R27). -/
structure PortIn where
  /-- `rst` -/
  rst : Bool
  /-- `req_valid` -/
  reqValid : Bool
  /-- `req_op` -/
  op : OpCode
  /-- `req_opnd0` -/
  opnd0 : Word64
  /-- `req_opnd1` -/
  opnd1 : Word64
  /-- `rsp_ready` -/
  rspReady : Bool
deriving DecidableEq, Repr

/-- The output ports during one cycle (R25). -/
structure PortOut where
  /-- `req_ready` -/
  reqReady : Bool
  /-- `rsp_valid` -/
  rspValid : Bool
  /-- `rsp_status` -/
  rspStatus : BitVec 2
  /-- `rsp_result` -/
  rspResult : Word64
  /-- `ctx_valid` -/
  ctxValid : Bool
deriving DecidableEq, Repr

/-- The machine: the context (R15), the command sequencer (R23), the implementation's latencies
(R6, R107) and the host's side of the ports. The block has no other state (R19 to R22, R29). -/
structure State where
  /-- `MOD` (R15) -/
  mod : Word64
  /-- `MU` (R15) -/
  mu : Word128
  /-- `CTX_VALID` (R15) -/
  ctxValid : Bool
  /-- `FSM` (R23) -/
  fsm : Fsm
  /-- `PEND_REQ` (R23) -/
  pendReq : ReqWord
  /-- `PEND_RSP` (R23) -/
  pendRsp : RspWord
  /-- `CNT` (R23) -/
  cnt : Nat
  /-- The OPEN parameters `LAT_BUILD`, `LAT_REDUCE`, `LAT_ILLEGAL` (R6); no step changes them.
  DESIGN CHOICE, log entry 4: safe over all states. -/
  lat : Latencies
  /-- The model's own field, the host's side of R25: the port samples of the coming edges, the next
  one first. When none is left the host drives every input to 0. DESIGN CHOICE, log entry 2: safe over
  all states, unsafe for a run that outlasts its list. -/
  inputs : List PortIn
  /-- The model's own field, the host's side of R103: the response words it has taken, oldest first.
  DESIGN CHOICE, log entry 3: safe. -/
  taken : List RspWord
deriving DecidableEq, Repr

/-- The block has no fault: an error is a status in the response, the block is never stopped by
one, and no behaviour is unpredictable (spec/60_exceptions.md R81, spec/93_implementation_defined.md
section 1). So this type has no constructor and no step can answer a fault. DEDUCED, log
entry 13: safe. -/
inductive Fault where
deriving DecidableEq, Repr

/-- The reasons to refuse an instruction. -/
inductive Refusal where
  /-- Raised by an arm of `exec` whose instruction has no meaning yet. Safe. No arm raises it: every row
  of the opcode table has its meaning. -/
  | notModelled (mnemonic : String)
deriving DecidableEq, Repr

/-- The reset values of R28 in an implementation with the latencies `lat`. -/
def State.resetWith (lat : Latencies) : State :=
  { mod := 0#64, mu := 0#128, ctxValid := false, fsm := .idle, pendReq := 0#130, pendRsp := 0#66,
    cnt := 0, lat := lat, inputs := [], taken := [] }

/-- The machine right after reset (R28, R96). -/
def State.reset : State := State.resetWith Config.resetLatencies

end Sys2Proof.Machine
end

