-- ==== Sys2Proof/Machine/Operands.lean ====
section
/-! DEFINITION. The operand forms (spec/20_memory.md R30, spec/30_encoding.md R43, R44, R48) and the width
primitives of spec/00_scope.md R10. There are no registers, immediates or addressing modes. -/

namespace Sys2Proof.Machine

/-- `a = {a_hi, a_lo}` (R30, R44, R66). -/
def dividend (aHi aLo : Word64) : Word128 := aHi ++ aLo

/-- `zext_N(v)` (R10). -/
def zext {w : Nat} (n : Nat) (v : BitVec w) : BitVec n := v.setWidth n

/-- `replicate_N(b)`: every bit of the result equals the 1-bit value `b` (R10). -/
def replicateBit (n : Nat) (b : BitVec 1) : BitVec n := b.signExtend n

/-- The request word standing on the ports: `{req_op, req_opnd0, req_opnd1}` (R25, R41). -/
def PortIn.word (p : PortIn) : ReqWord := p.op ++ p.opnd0 ++ p.opnd1

/-- A host that drives every input to 0: no reset, no request, response not taken. -/
def PortIn.quiet : PortIn :=
  { rst := false, reqValid := false, op := 0#2, opnd0 := 0#64, opnd1 := 0#64, rspReady := false }

end Sys2Proof.Machine
end

