-- ==== Sys2Proof/Machine/Assembler.lean ====
section
/-! DEFINITION. The request word of an assembler line (spec/30_encoding.md R53 to R55). -/

namespace Sys2Proof.Machine

/-- The core command or raw word a line stands for: the expansions of R54, the host's exact product for
`MODMUL` among them; other lines stand for themselves. -/
def expandLine : AsmLine → AsmLine
  | .reduce128 a => .reduce (a / 2 ^ 64) (a % 2 ^ 64)
  | .modmul x y => .reduce (x * y / 2 ^ 64) (x * y % 2 ^ 64)
  | .build m => .build m
  | .reduce aHi aLo => .reduce aHi aLo
  | .req op opnd0 opnd1 => .req op opnd0 opnd1

/-- The word of a line after expansion: `BUILD` gets `opnd0 = 0` (R53), `.req` is emitted as it stands
(R55); none for a pseudo-instruction that has not been expanded. -/
def coreWord : AsmLine → Option ReqWord
  | .build m => some (mkReq opBuild 0#64 (BitVec.ofNat 64 m))
  | .reduce aHi aLo => some (mkReq opReduce (BitVec.ofNat 64 aHi) (BitVec.ofNat 64 aLo))
  | .req op opnd0 opnd1 => some (mkReq (BitVec.ofNat 2 op) (BitVec.ofNat 64 opnd0) (BitVec.ofNat 64 opnd1))
  | .reduce128 _ => none
  | .modmul _ _ => none

/-- The request word of a line; none for a line with a literal out of range (R53 to R55). -/
def assemble (l : AsmLine) : Option ReqWord :=
  if l.wellFormed then coreWord (expandLine l) else none

end Sys2Proof.Machine
end

