-- ==== Sys2Proof/Machine/Flags.lean ====
section
/-! DEFINITION. The block has no flags (spec/10_state.md R20); what it has instead is the 2-bit status
of each response and the response word that carries it (spec/30_encoding.md R50 to R52). -/

namespace Sys2Proof.Machine

/-- The outcome of a command (R51). -/
inductive Status where
  /-- the command succeeded -/
  | ok
  /-- `BUILD` with `m < 2` (R61) -/
  | invalidModulus
  /-- `REDUCE` with `CTX_VALID = 0` (R80) -/
  | noContext
  /-- a reserved `op` (R46) -/
  | illegalOp
deriving DecidableEq, Repr

/-- The status codes of R51. -/
def Status.code : Status → BitVec 2
  | .ok => 0b00#2
  | .invalidModulus => 0b01#2
  | .noContext => 0b10#2
  | .illegalOp => 0b11#2

/-- `RSP = {status, result}` (R50). -/
def mkRsp (st : Status) (result : Word64) : RspWord := st.code ++ result

/-- `RSP[65:64]` (R50). -/
def rspStatusOf (r : RspWord) : BitVec 2 := r.extractLsb' 64 2

/-- `RSP[63:0]` (R50). -/
def rspResultOf (r : RspWord) : Word64 := r.extractLsb' 0 64

end Sys2Proof.Machine
end

