-- ==== Sys2Proof/Machine/Ops.lean ====
section
/-! DEFINITION. The named operations over the block's registers, each used by several meanings or by
the sequencer. There is no memory (spec/20_memory.md R29) and no trap (spec/60_exceptions.md R81): an error is
reported by `respondError`, and the way back to `IDLE` is the response handshake. -/

namespace Sys2Proof.Machine

/-- `respond(status, result)` (spec/00_scope.md R11): ends the command and presents its response word.
With R24: `PEND_RSP` is set in the transition from `BUSY` to `RESP`. DEDUCED, log entry 13: safe in
a run. `PEND_REQ` and `CNT` keep their values. DEDUCED, log entry 5: unsafe in form, unobservable. -/
def State.respond (st : Status) (result : Word64) (s : State) : State :=
  { s with pendRsp := mkRsp st result, fsm := .resp }

/-- The one error mechanism (R81, R82): a non-`OK` status with result 0 in the command's own response
(R52, R85), nothing saved, no change of mode. -/
def State.respondError (st : Status) (s : State) : State := s.respond st 0#64

/-- The one atomic update of `MOD`, `MU` and `CTX_VALID` (spec/20_memory.md R33). -/
def State.writeContext (m : Word64) (mu : Word128) (valid : Bool) (s : State) : State :=
  { s with mod := m, mu := mu, ctxValid := valid }

/-- `MOD <- 0`, `MU <- 0`, `CTX_VALID <- 0` (spec/40_context_builder.md R61). -/
def State.clearContext (s : State) : State := s.writeContext 0#64 0#128 false

/-- A rising edge with `rst = 1` (spec/70_reset_and_hazards.md R94, R97): every register of the block
takes its reset value. The latencies are no registers, and the host's own record and coming inputs
are not the block's to clear. -/
def State.applyReset (s : State) : State :=
  { State.resetWith s.lat with inputs := s.inputs, taken := s.taken }

/-- `LAT(op)` (spec/10_state.md R24): a function of the `op` field alone (R108). -/
def latencyOf (l : Latencies) (op : OpCode) : Nat :=
  if op = opBuild then l.build else if op = opReduce then l.reduce else l.illegal

/-- `LAT(op)` of the accepted command. -/
def State.pendLatency (s : State) : Nat := latencyOf s.lat (reqOp s.pendReq)

end Sys2Proof.Machine
end

