-- ==== Sys2Proof/Machine/Build.lean ====
section
/-! DEFINITION. `BUILD`, the modulus_context_builder (spec/40_context_builder.md R56 to R64). -/

namespace Sys2Proof.Machine

/-- `MU = floor(2^128 / m)`, exactly, for `m >= 2` (R57). The value is the rule, not the method. -/
def muOf (m : Word64) : Word128 := BitVec.ofNat 128 (2 ^ 128 / m.toNat)

/-- `BUILD m` (R56, R61). -/
def execBuild (m : Word64) (s : State) : Host.Outcome State Fault Refusal :=
  if m < 2#64 then .next (s.clearContext.respondError .invalidModulus)
  else .next ((s.writeContext m (muOf m) true).respond .ok 0#64)

/-- The working registers of the long division of R60: `rem` and the quotient bits so far. -/
structure LongDivision where
  /-- 65 bits -/
  rem : BitVec 65
  /-- 129 bits -/
  q : BitVec 129
deriving DecidableEq, Repr

/-- One of the 129 iterations of R60, at bit index `i`; the select is a mask as in R73. -/
def longDivisionStep (m : Word64) (i : Nat) (d : LongDivision) : LongDivision :=
  let bit : BitVec 65 := if i = 128 then 1#65 else 0#65
  let t := 2#65 * d.rem + bit
  let diff : BitVec 66 := zext 66 t - zext 66 m
  let ge : BitVec 1 := ~~~ (diff.extractLsb' 65 1)
  let mask := replicateBit 65 ge
  { rem := (diff.setWidth 65 &&& mask) ||| (t &&& ~~~ mask)
    q := d.q ||| (zext 129 ge <<< i) }

/-- The iterations `n-1` down to `0` of R60. -/
def longDivisionFrom (m : Word64) : Nat → LongDivision → LongDivision
  | 0, d => d
  | n + 1, d => longDivisionFrom m n (longDivisionStep m n d)

/-- `MuByLongDivision(m)` (R60): informative in the spec, one method that gives R57's value. No meaning
uses it. -/
def muByLongDivision (m : Word64) : Word128 :=
  (longDivisionFrom m 129 { rem := 0#65, q := 0#129 }).q.setWidth 128

end Sys2Proof.Machine
end

