-- ==== Sys2Proof/Machine/Reduce.lean ====
section
/-! DEFINITION. `REDUCE`, barrett_reduce_128_to_64 (spec/41_reducer.md R65 to R80): the datapath step by
step, at the widths of R75, with no branch on data. -/

namespace Sys2Proof.Machine

/-- `P = a * MU`, the exact 256-bit product (R65, R75). -/
def product (a mu : Word128) : Word256 := zext 256 a * zext 256 mu

/-- `q_hat = P[255:128]`, all 128 bits of it (R68; spec/90_conflicts.md C3). -/
def qHat (a mu : Word128) : Word128 := (product a mu).extractLsb' 128 128

/-- The full 192-bit product `q_hat * m` (R75). -/
def estimateProduct (q : Word128) (m : Word64) : BitVec 192 := zext 192 q * zext 192 m

/-- `r0 = a - T` in 128 bits, where `T` is `q_hat * m` in the 128 bits R75 holds it in (R71). In a valid
context the top 64 bits of the full product are 0 and nothing wraps; elsewhere (no run gets there)
the held widths wrap. DEDUCED, log entry 7: safe in a run. -/
def candidate (a mu : Word128) (m : Word64) : Word128 := a - (estimateProduct (qHat a mu) m).setWidth 128

/-- `d = trunc_129(zext_129(r) - zext_129(m))` (R73). -/
def corrDiff (r : Word128) (m : Word64) : BitVec 129 := zext 129 r - zext 129 m

/-- `ge = 1 - d[128]` (R73). -/
def corrGe (r : Word128) (m : Word64) : BitVec 1 := 1#1 - (corrDiff r m).extractLsb' 128 1

/-- `mask = replicate_128(ge)` (R73). -/
def corrMask (r : Word128) (m : Word64) : Word128 := replicateBit 128 (corrGe r m)

/-- `CorrStage(r, m)`: the mask select of R73. -/
def corrStage (r : Word128) (m : Word64) : Word128 :=
  ((corrDiff r m).setWidth 128 &&& corrMask r m) ||| (r &&& ~~~ corrMask r m)

/-- The multiply-and-subtract realisation `r - ge * m` that R73 allows as well. No meaning uses it. -/
def corrStageByMultiply (r : Word128) (m : Word64) : Word128 :=
  r - zext 128 (corrGe r m) * zext 128 m

/-- `r2`: exactly `NCORR = 2` correction stages, both always evaluated (R72). -/
def correct (r0 : Word128) (m : Word64) : Word128 := corrStage (corrStage r0 m) m

/-- `r2[63:0]` for the dividend `a` and the context `(m, mu)` (R65, R74). -/
def remainder (a : Word128) (m : Word64) (mu : Word128) : Word64 := (correct (candidate a mu m) m).setWidth 64

/-- `REDUCE aHi, aLo` (R65, R78, R80). -/
def execReduce (aHi aLo : Word64) (s : State) : Host.Outcome State Fault Refusal :=
  if s.ctxValid then .next (s.respond .ok (remainder (dividend aHi aLo) s.mod s.mu))
  else .next (s.respondError .noContext)

end Sys2Proof.Machine
end

