-- ==== Sys2Proof/Machine/Reserved.lean ====
section
/-! DEFINITION. The two reserved encodings (spec/30_encoding.md R46; spec/60_exceptions.md R82). -/

namespace Sys2Proof.Machine

/-- `op = 0b00`: the response `{ILLEGAL_OP, 0}`, context unchanged (R46). -/
def execReserved00 (s : State) : Host.Outcome State Fault Refusal := .next (s.respondError .illegalOp)

/-- `op = 0b11`: the response `{ILLEGAL_OP, 0}`, context unchanged (R46). -/
def execReserved11 (s : State) : Host.Outcome State Fault Refusal := .next (s.respondError .illegalOp)

end Sys2Proof.Machine
end

