-- ==== Sys2Proof/Machine/Dispatch.lean ====
section
/-! DEFINITION. `Exec(S, REQ)` of spec/30_encoding.md R47, one arm per command. -/

namespace Sys2Proof.Machine

-- R47: BUILD(m) is R56, REDUCE(a_hi, a_lo) is R65, RESERVED is R82.
def exec (i : Instr) (s : State) : Host.Outcome State Fault Refusal :=
  match i with
  | .build _ m => Sys2Proof.Machine.execBuild m s
  | .reduce aHi aLo => Sys2Proof.Machine.execReduce aHi aLo s
  | .reserved00 _ _ => Sys2Proof.Machine.execReserved00 s
  | .reserved11 _ _ => Sys2Proof.Machine.execReserved11 s

end Sys2Proof.Machine
end

