-- ==== Sys2Proof/Machine/Sequencer.lean ====
section
/-! DEFINITION. The ports and the command sequencer at each rising edge of `clk` (spec/10_state.md R24 to R27;
spec/70_reset_and_hazards.md R93 to R104), and the transaction level over it (spec/00_scope.md R8). -/

namespace Sys2Proof.Machine

/-- `req_ready`: 1 exactly when `FSM = IDLE` and `rst = 0` (R25). -/
def reqReady (rst : Bool) (s : State) : Bool := s.fsm == .idle && !rst

/-- `rsp_valid`: 1 exactly when `FSM = RESP`, and driven to 0 while `rst = 1` (R25, R95). DEDUCED, log
entry 6: unsafe for a claim about this output before the first reset edge. -/
def rspValid (rst : Bool) (s : State) : Bool := s.fsm == .resp && !rst

/-- The output ports during a cycle with the given `rst` (R25, R26, R95): the response fields are 0
while `rsp_valid = 0`. -/
def outputs (rst : Bool) (s : State) : PortOut :=
  { reqReady := reqReady rst s
    rspValid := rspValid rst s
    rspStatus := if rspValid rst s then rspStatusOf s.pendRsp else 0#2
    rspResult := if rspValid rst s then rspResultOf s.pendRsp else 0#64
    ctxValid := s.ctxValid }

/-- A request transfers at this edge: `rst = 0`, `req_valid = 1` and `req_ready = 1` (R100). -/
def requestTransfers (p : PortIn) (s : State) : Bool := p.reqValid && reqReady p.rst s

/-- The response transfers at this edge: `rsp_valid = 1` and `rsp_ready = 1` (R103). -/
def responseTransfers (p : PortIn) (s : State) : Bool := p.rspReady && rspValid p.rst s

/-- The accepted command reaches its response at this edge: `CNT + 1 = LAT(op)` (R24). -/
def commits (s : State) : Bool := s.cnt + 1 == s.pendLatency

/-- `IDLE`: accept the request on the ports, if one transfers (R24, R100). -/
def idleEdge (p : PortIn) (s : State) : State :=
  if requestTransfers p s then { s with fsm := .busy, pendReq := p.word, cnt := 0 } else s

/-- `BUSY`: at `CNT + 1 = LAT(op)` apply `Exec` to the accepted word, which writes the context and
presents the response at this one edge (R24, R104); before it, count. In a state with
`CNT >= LAT(op)`, which no run reaches, it counts on. DEDUCED, log entry 7: safe in a run. -/
def busyEdge (s : State) : Host.Outcome State Fault Refusal :=
  if commits s then exec (decode s.pendReq) s else .next { s with cnt := s.cnt + 1 }

/-- `RESP`: back to `IDLE` when the host takes the response, else hold it (R24, R103). -/
def respEdge (p : PortIn) (s : State) : State :=
  if responseTransfers p s then { s with fsm := .idle, taken := s.taken ++ [s.pendRsp] } else s

/-- One rising edge of `clk` at which the input ports are `p` (R24, R27); reset takes precedence (R94). -/
def clockEdge (p : PortIn) (s : State) : Host.Outcome State Fault Refusal :=
  if p.rst then .next s.applyReset
  else
    match s.fsm with
    | .idle => .next (idleEdge p s)
    | .busy => busyEdge s
    | .resp => .next (respEdge p s)

/-- The input ports at the next edge: the host's next sample, or all inputs at 0 when it has none left.
DESIGN CHOICE, log entry 2: unsafe for a run that outlasts its list. -/
def State.sample (s : State) : PortIn :=
  match s.inputs with
  | [] => PortIn.quiet
  | p :: _ => p

/-- The host moves on to its following sample. -/
def State.sampled (s : State) : State := { s with inputs := s.inputs.tail }

/-- The transaction level of R8: the commands `ws`, each as one atomic `Exec(S, req)`, in order (R35).
Only the context and the response it presents mean anything at this level. -/
def execWords : List ReqWord → State → Host.Outcome State Fault Refusal
  | [], s => .next s
  | w :: ws, s =>
    match exec (decode w) s with
    | .next t => execWords ws t
    | .fault r => .fault r
    | .refused r => .refused r

/-- The responses of the commands `ws` at the transaction level, in order. -/
def responsesOf : List ReqWord → State → List RspWord
  | [], _ => []
  | w :: ws, s =>
    match exec (decode w) s with
    | .next t => t.pendRsp :: responsesOf ws t
    | .fault _ => []
    | .refused _ => []

end Sys2Proof.Machine
end

