-- ==== Sys2Proof/Machine/Step.lean ====
section
/-! DEFINITION. One step of the machine: one rising edge of `clk` (spec/10_state.md R24, R27).
DESIGN CHOICE, log entry 1: safe. -/

namespace Sys2Proof.Machine

/-- The host presents its next sample and the block takes one clock edge. -/
def step (s : State) : Host.Outcome State Fault Refusal := clockEdge s.sample s.sampled

/-- `s` with the request word `w` accepted and in its last `BUSY` cycle, and a quiet host at the next
edge, so that the very next step runs exactly that command. DESIGN CHOICE, log entry 8: safe. The block fetches
nothing (R21): a command is run from `PEND_REQ`. -/
def State.withFetchWord (s : State) (nbits w : Nat) : State :=
  let req := BitVec.ofNat 130 (w % 2 ^ nbits)
  { s with
    fsm := .busy
    pendReq := req
    cnt := latencyOf s.lat (reqOp req) - 1
    inputs := PortIn.quiet :: s.inputs }

end Sys2Proof.Machine
end

