-- ==== Sys2Proof/Safety.lean ====
section
/-! DEFINITION. What a good state of the block is, and what a host that keeps its duties does, in the
terms the statements use (spec/10_state.md R16, R23; spec/60_exceptions.md R87; spec/70_reset_and_hazards.md R98 to
R103). The step assumes none of it. -/

namespace Sys2Proof.Machine

/-- A valid context (spec/00_scope.md R14) that holds what R16 says it holds. -/
def State.holdsContext (s : State) : Prop :=
  s.ctxValid = true ∧ 2 ≤ s.mod.toNat ∧ s.mu.toNat = 2 ^ 128 / s.mod.toNat

/-- R16, and with `CTX_VALID = 0` the values R28 and R61 define (spec/93_implementation_defined.md U11). -/
def ContextInv (s : State) : Prop :=
  s.holdsContext ∨ (s.ctxValid = false ∧ s.mod = 0#64 ∧ s.mu = 0#128)

/-- The counter is short of the latency of the latched command, so that `CNT + 1 = LAT(op)` is still to
come in `BUSY` (R23, R24). -/
def SequencerInv (s : State) : Prop := s.cnt < s.pendLatency

/-- The presented response is the one the accepted command and the context it left call for
(R51, R52, R82); in particular `OK` is reported only as R87 allows. -/
def ResponseInv (s : State) : Prop :=
  s.fsm = .resp →
    match decode s.pendReq with
    | .build _ m =>
      (m.toNat < 2 → s.ctxValid = false ∧ s.pendRsp = mkRsp .invalidModulus 0#64) ∧
      (2 ≤ m.toNat → s.ctxValid = true ∧ s.mod = m ∧ s.pendRsp = mkRsp .ok 0#64)
    | .reduce aHi aLo =>
      (s.ctxValid = false → s.pendRsp = mkRsp .noContext 0#64) ∧
      (s.ctxValid = true → rspStatusOf s.pendRsp = Status.ok.code ∧
        (rspResultOf s.pendRsp).toNat = (aHi.toNat * 2 ^ 64 + aLo.toNat) % s.mod.toNat)
    | .reserved00 _ _ => s.pendRsp = mkRsp .illegalOp 0#64
    | .reserved11 _ _ => s.pendRsp = mkRsp .illegalOp 0#64

/-- The invariant of the whole machine. -/
def Inv (s : State) : Prop := ContextInv s ∧ SequencerInv s ∧ ResponseInv s

/-- R101 over the next `k` edges: a host whose request waits at an edge presents the same request at the
following one. -/
def HostHolds : Nat → State → Prop
  | 0, _ => True
  | k + 1, s => ∀ t, step s = .next t →
      (s.sample.reqValid = true → requestTransfers s.sample s = false →
        t.sample.reqValid = true ∧ t.sample.word = s.sample.word) ∧
      HostHolds k t

/-- The word of the first request that transfers within the next `k` edges (R100). -/
def firstAccepted : Nat → State → Option ReqWord
  | 0, _ => none
  | k + 1, s =>
    if requestTransfers s.sample s then some s.sample.word
    else
      match step s with
      | .next t => firstAccepted k t
      | .fault _ => none
      | .refused _ => none

/-- A `BUILD` that will succeed: a legal modulus (R7, R98). -/
def isLegalBuild (w : ReqWord) : Bool := reqOp w == opBuild && decide (2 ≤ (reqOpnd1 w).toNat)

/-- The duty of R98 over a stream of commands: no `REDUCE` before a successful `BUILD`, and none after a
failed one. `built` says whether a context is there to begin with. -/
def buildsFirst : Bool → List ReqWord → Bool
  | _, [] => true
  | built, w :: ws =>
    if reqOp w = opBuild then buildsFirst (isLegalBuild w) ws
    else (built || !(reqOp w == opReduce)) && buildsFirst built ws

/-- The ports of a host that presents the request `w`. -/
def presentRequest (w : ReqWord) : PortIn :=
  { PortIn.quiet with reqValid := true, op := reqOp w, opnd0 := reqOpnd0 w, opnd1 := reqOpnd1 w }

/-- The ports of a host that takes a response. -/
def takeResponse : PortIn := { PortIn.quiet with rspReady := true }

/-- A host that presents `w`, is quiet for its latency and for `stall` edges more, and then takes the
response (R100, R103). -/
def serveOne (l : Latencies) (w : ReqWord) (stall : Nat) : List PortIn :=
  presentRequest w :: (List.replicate (latencyOf l (reqOp w) + stall) PortIn.quiet ++ [takeResponse])

/-- A host that serves a stream of commands in order, each with a stall of its own. -/
def serveAll (l : Latencies) : List (ReqWord × Nat) → List PortIn
  | [] => []
  | c :: cs => serveOne l c.1 c.2 ++ serveAll l cs

/-- Two port samples that differ in operands only (R108). -/
def SameControl (p q : PortIn) : Prop :=
  p.rst = q.rst ∧ p.reqValid = q.reqValid ∧ p.op = q.op ∧ p.rspReady = q.rspReady

/-- Two machines that may differ in operands, context, status and result, and in nothing the latency
may depend on (R108). -/
def SameTiming (s t : State) : Prop :=
  s.fsm = t.fsm ∧ s.cnt = t.cnt ∧ s.lat = t.lat ∧ reqOp s.pendReq = reqOp t.pendReq ∧
  List.Forall₂ SameControl s.inputs t.inputs

end Sys2Proof.Machine
end

