-- ==== Sys2Proof/Certificates/Slice0/Obligations.lean ====
section
/-! DEFINITION. The statements for the provers, in the order of spec/. Latencies (the field `lat`) stand
universally quantified in every statement: none rests on the value `State.reset` carries (log entry 4).
Where a statement says that all else is unchanged, that `PEND_REQ`, `PEND_RSP` and `CNT` keep their values
at edges where R24 does not write them is log entry 5 (DEDUCED), and `inputs` and `taken` are the
model's own fields (log entries 2 and 3, DESIGN CHOICE). -/

open Sys2Proof Sys2Proof.Machine

/-! ## Encoding (spec/30_encoding.md) -/

/-- Words written out by hand from the layout of R41 and the codes of R42 decode to the commands they
stand for. -/
def Obligations.WrittenOutWordsDecode : Prop :=
  decode 0x100000000000000000000000000002717#130 = .build 0#64 10007#64 ∧
  decode 0x1deadbeefdeadbeef0000000000002717#130 = .build 0xdeadbeefdeadbeef#64 10007#64 ∧
  decode 0x2123456789abcdef0fedcba9876543210#130 = .reduce 0x123456789abcdef0#64 0xfedcba9876543210#64 ∧
  decode 0x000000000000000000000000000000007#130 = .reserved00 0#64 7#64 ∧
  decode 0x300000000000000010000000000000002#130 = .reserved11 1#64 2#64

/-- Decoding and encoding are inverse to each other, in both directions, over all commands and all
`2^130` words (R41, R46, R47). That `encode (decode w) = w` rests on log entry 10 (DESIGN CHOICE): a command
keeps the ignored fields of R45, where R47 decodes to `BUILD(m)` and `RESERVED`. -/
def Obligations.DecodeAndEncodeAreInverse : Prop :=
  (∀ i : Instr, i.wellFormed = true → decode (encode i) = i) ∧ ∀ w : ReqWord, encode (decode w) = w

/-- The `op` field alone selects the command, and the operand fields are bits 127 to 64 and 63 to 0
(R41 to R44, R47). -/
def Obligations.OpFieldSelectsTheCommand : Prop :=
  ∀ w : ReqWord,
    (w.extractLsb' 128 2 = 0b00#2 → decode w = .reserved00 (w.extractLsb' 64 64) (w.extractLsb' 0 64)) ∧
    (w.extractLsb' 128 2 = 0b01#2 → decode w = .build (w.extractLsb' 64 64) (w.extractLsb' 0 64)) ∧
    (w.extractLsb' 128 2 = 0b10#2 → decode w = .reduce (w.extractLsb' 64 64) (w.extractLsb' 0 64)) ∧
    (w.extractLsb' 128 2 = 0b11#2 → decode w = .reserved11 (w.extractLsb' 64 64) (w.extractLsb' 0 64))

/-- R44 and R66: the two operands of `REDUCE`, and the dividend they make. -/
def Obligations.ReduceOperandsAreTheDividend : Prop :=
  ∀ w : ReqWord, w.extractLsb' 128 2 = 0b10#2 →
    ∃ aHi aLo : Word64, decode w = .reduce aHi aLo ∧ aHi = w.extractLsb' 64 64 ∧ aLo = w.extractLsb' 0 64 ∧
      dividend aHi aLo = w.extractLsb' 0 128 ∧
      (dividend aHi aLo).toNat = aHi.toNat * 2 ^ 64 + aLo.toNat ∧ (dividend aHi aLo).toNat < 2 ^ 128

/-- R45: `opnd0` of `BUILD` and both operands of a reserved `op` change neither the response nor the next
state, and no operand keeps a word from being accepted. -/
def Obligations.IgnoredFieldsHaveNoEffect : Prop :=
  (∀ (w w' : ReqWord) (s : State), reqOp w = reqOp w' →
    ((reqOp w = 0b01#2 ∧ reqOpnd1 w = reqOpnd1 w') ∨ reqOp w = 0b00#2 ∨ reqOp w = 0b11#2) →
    exec (decode w) s = exec (decode w') s) ∧
  ∀ (p : PortIn) (x y : Word64) (s : State),
    requestTransfers { p with opnd0 := x, opnd1 := y } s = requestTransfers p s

/-- R46: every one of the `2^130` words runs in every state and ends with a response presented; a
reserved one gets `{ILLEGAL_OP, 0}` and changes nothing else. -/
def Obligations.EveryWordHasAMeaning : Prop :=
  ∀ (w : ReqWord) (s : State),
    (∃ t, exec (decode w) s = .next t ∧ t.fsm = .resp) ∧
    (reqOp w = 0b00#2 ∨ reqOp w = 0b11#2 →
      exec (decode w) s = .next { s with fsm := .resp, pendRsp := 0x30000000000000000#66 })

/-- Both reserved commands complete in every state: the response `{ILLEGAL_OP, 0}`, and nothing else
written (R46, R82). -/
def Obligations.ReservedCommandsAnswerIllegalOp : Prop :=
  ∀ (x y : Word64) (s : State),
    exec (.reserved00 x y) s = .next { s with fsm := .resp, pendRsp := 0x30000000000000000#66 } ∧
    exec (.reserved11 x y) s = .next { s with fsm := .resp, pendRsp := 0x30000000000000000#66 }

/-- The line forms of R53 and R55 give the words those rules write out, and a line with a literal out of
range gives none. -/
def Obligations.AssemblerLinesGiveTheirWords : Prop :=
  (∀ m : Nat, m < 2 ^ 64 →
    (assemble (.build m)).map BitVec.toNat = some (1 * 2 ^ 128 + 0 * 2 ^ 64 + m)) ∧
  (∀ aHi aLo : Nat, aHi < 2 ^ 64 → aLo < 2 ^ 64 →
    (assemble (.reduce aHi aLo)).map BitVec.toNat = some (2 * 2 ^ 128 + aHi * 2 ^ 64 + aLo)) ∧
  (∀ op x y : Nat, op < 4 → x < 2 ^ 64 → y < 2 ^ 64 →
    (assemble (.req op x y)).map BitVec.toNat = some (op * 2 ^ 128 + x * 2 ^ 64 + y)) ∧
  (∀ a : Nat, a < 2 ^ 128 →
    assemble (.reduce128 a) = assemble (.reduce (a / 2 ^ 64) (a % 2 ^ 64)) ∧
    (assemble (.reduce128 a)).map BitVec.toNat = some (2 * 2 ^ 128 + a)) ∧
  ∀ l : AsmLine, l.wellFormed = false → assemble l = none

/-- The pseudo-instruction `MODMUL` in a valid context: its expansion is a `REDUCE` of the exact product,
so its response is `x * y mod MOD` (R54, R67). -/
def Obligations.ModmulGivesTheProductModulo : Prop :=
  ∀ (x y : Nat) (s : State), x < 2 ^ 64 → y < 2 ^ 64 → s.holdsContext →
    ∃ w t, assemble (.modmul x y) = some w ∧ exec (decode w) s = .next t ∧
      rspStatusOf t.pendRsp = 0b00#2 ∧ (rspResultOf t.pendRsp).toNat = x * y % s.mod.toNat

/-! ## BUILD (spec/40_context_builder.md) -/

/-- R56: `BUILD` in every state and on every operand, with its encoding. -/
def Obligations.BuildWritesTheContext : Prop :=
  (∀ w : ReqWord, w.extractLsb' 128 2 = 0b01#2 →
    decode w = .build (w.extractLsb' 64 64) (w.extractLsb' 0 64)) ∧
  ∀ (ignored m : Word64) (s : State),
    (m.toNat < 2 → exec (.build ignored m) s =
      .next { s with mod := 0#64, mu := 0#128, ctxValid := false, fsm := .resp,
                     pendRsp := 0x10000000000000000#66 }) ∧
    (2 ≤ m.toNat → ∃ mu : Word128, mu.toNat = 2 ^ 128 / m.toNat ∧
      exec (.build ignored m) s =
        .next { s with mod := m, mu := mu, ctxValid := true, fsm := .resp, pendRsp := 0#66 })

/-- The bounds of R58 on the constant a `BUILD` writes, and why `m = 1` has none that fits. -/
def Obligations.BuiltMuFitsItsRegister : Prop :=
  ∀ (ignored m : Word64) (s t : State), exec (.build ignored m) s = .next t →
    (2 ≤ m.toNat → t.mu.toNat = 2 ^ 128 / m.toNat ∧ 2 ^ 64 + 1 ≤ t.mu.toNat ∧ t.mu.toNat ≤ 2 ^ 127 ∧
      t.mu.extractLsb' 64 64 ≠ 0#64) ∧
    (m.toNat = 1 → ¬ 2 ^ 128 / m.toNat < 2 ^ 128)

/-- R62: a power of two needs no special case. -/
def Obligations.PowerOfTwoModulusIsBuiltExactly : Prop :=
  ∀ (k : Nat) (ignored m : Word64) (s : State), 1 ≤ k → k ≤ 63 → m.toNat = 2 ^ k →
    ∃ t, exec (.build ignored m) s = .next t ∧ t.mod = m ∧ t.ctxValid = true ∧ t.mu.toNat = 2 ^ (128 - k)

/-- R63: two `BUILD`s with one modulus leave one context and give one response, whatever the states
before them. -/
def Obligations.BuildIsDeterministic : Prop :=
  ∀ (x y m : Word64) (s s' t t' : State),
    exec (.build x m) s = .next t → exec (.build y m) s' = .next t' →
      t.mod = t'.mod ∧ t.mu = t'.mu ∧ t.ctxValid = t'.ctxValid ∧ t.pendRsp = t'.pendRsp

/-- R61: a refused `BUILD` clears the context, and every `REDUCE` after it responds `NO_CONTEXT` until a
`BUILD` succeeds. -/
def Obligations.RefusedBuildInvalidatesUntilRebuilt : Prop :=
  ∀ (ignored m : Word64) (s : State), m.toNat < 2 →
    ∃ t, exec (.build ignored m) s = .next t ∧ t.mod = 0#64 ∧ t.mu = 0#128 ∧ t.ctxValid = false ∧
      rspStatusOf t.pendRsp = 0b01#2 ∧ rspResultOf t.pendRsp = 0#64 ∧
      ∀ ws : List ReqWord, (∀ w ∈ ws, isLegalBuild w = false) →
        ∃ u, execWords ws t = .next u ∧ u.ctxValid = false ∧
          ∀ aHi aLo : Word64, exec (.reduce aHi aLo) u =
            .next { u with fsm := .resp, pendRsp := 0x20000000000000000#66 }

/-- The long division of R60 computes the constant that `BUILD` writes; its quotient's bit 128 is 0. (R60
is the spec's own passage from general knowledge.) -/
def Obligations.LongDivisionComputesTheBuiltMu : Prop :=
  ∀ (ignored m : Word64) (s t : State), 2 ≤ m.toNat → exec (.build ignored m) s = .next t →
    muByLongDivision m = t.mu ∧
    (longDivisionFrom m 129 { rem := 0#65, q := 0#129 }).q.getLsbD 128 = false

/-- How far the two shortcuts that R59 forbids are from the constant that `BUILD` writes. (R59 is marked
derived.) -/
def Obligations.ForbiddenShortcutsMissTheBuiltMu : Prop :=
  ∀ (ignored m : Word64) (s t : State), 2 ≤ m.toNat → exec (.build ignored m) s = .next t →
    2 * (2 ^ 127 / m.toNat) + (if m.toNat ≤ 2 * (2 ^ 127 % m.toNat) then 1 else 0) = t.mu.toNat ∧
    (2 ^ 128 - 1) / m.toNat + (if m.toNat ∣ 2 ^ 128 then 1 else 0) = t.mu.toNat ∧
    (∀ k : Nat, m.toNat = 2 ^ k → 2 * (2 ^ 127 / m.toNat) = t.mu.toNat)

/-- No hazard between `BUILD` and `REDUCE` (R105), and the `REDUCE` after a `BUILD` reduces modulo that
`BUILD`'s modulus, whatever context stood before (R56, R64, R67, R110). -/
def Obligations.ReduceAfterBuildUsesItsModulus : Prop :=
  ∀ (ignored m aHi aLo : Word64) (s : State), 2 ≤ m.toNat →
    ∃ t, execWords [encode (.build ignored m), encode (.reduce aHi aLo)] s = .next t ∧
      rspStatusOf t.pendRsp = 0b00#2 ∧
      (rspResultOf t.pendRsp).toNat = (aHi.toNat * 2 ^ 64 + aLo.toNat) % m.toNat

/-! ## REDUCE (spec/41_reducer.md) -/

/-- R77 (and R67): in a valid context `REDUCE` completes for every dividend with the exact remainder, and
writes nothing but its response. The headline: the Barrett datapath is right. -/
def Obligations.ReduceAnswersTheExactRemainder : Prop :=
  ∀ (aHi aLo : Word64) (s : State), s.holdsContext →
    ∃ r : Word64, r.toNat = (aHi.toNat * 2 ^ 64 + aLo.toNat) % s.mod.toNat ∧
      exec (.reduce aHi aLo) s = .next { s with fsm := .resp, pendRsp := mkRsp .ok r } ∧
      (mkRsp .ok r).toNat = r.toNat

/-- R80: without a context `REDUCE` responds `{NO_CONTEXT, 0}` and changes no state; so it is after reset
and after a refused `BUILD`. -/
def Obligations.ReduceWithoutContextIsReported : Prop :=
  (∀ (aHi aLo : Word64) (s : State), s.ctxValid = false →
    exec (.reduce aHi aLo) s = .next { s with fsm := .resp, pendRsp := 0x20000000000000000#66 }) ∧
  (∀ l : Latencies, (State.resetWith l).ctxValid = false) ∧
  ∀ (ignored m : Word64) (s t : State), m.toNat < 2 → exec (.build ignored m) s = .next t → t.ctxValid = false

/-- The bounds of R68 and R70, which the spec marks derived, with the looser bound of R69: the estimate is
at most one low, and it needs more than 64 bits whenever `a_hi > m`. An arithmetic lemma on `qHat`. -/
def Obligations.QuotientEstimateIsAtMostOneLow : Prop :=
  ∀ (a mu : Word128) (m : Word64), 2 ≤ m.toNat → mu.toNat = 2 ^ 128 / m.toNat →
    (qHat a mu).toNat = a.toNat * mu.toNat / 2 ^ 128 ∧
    (qHat a mu).toNat ≤ a.toNat / m.toNat ∧ a.toNat / m.toNat ≤ (qHat a mu).toNat + 2 ∧
    a.toNat / m.toNat ≤ (qHat a mu).toNat + 1 ∧ (qHat a mu).toNat < 2 ^ 127 ∧
    (a.toNat < m.toNat * 2 ^ 64 → (qHat a mu).toNat < 2 ^ 64) ∧
    (m.toNat < (a.extractLsb' 64 64).toNat → 2 ^ 64 ≤ (qHat a mu).toNat)

/-- The candidate remainder of R71: no borrow, and below `2m`. (R71 is marked derived.) -/
def Obligations.CandidateRemainderIsBelowTwiceTheModulus : Prop :=
  ∀ (a mu : Word128) (m : Word64), 2 ≤ m.toNat → mu.toNat = 2 ^ 128 / m.toNat →
    (qHat a mu).toNat * m.toNat ≤ a.toNat ∧
    (candidate a mu m).toNat = a.toNat - (qHat a mu).toNat * m.toNat ∧
    (candidate a mu m).toNat < 2 * m.toNat ∧ 2 * m.toNat ≤ 2 ^ 65 - 2

/-- R73: one correction stage subtracts exactly when `r >= m`, and the multiply-and-subtract realisation
gives the same value. -/
def Obligations.CorrectionStageSubtractsWhenItMay : Prop :=
  ∀ (r : Word128) (m : Word64),
    (m.toNat ≤ r.toNat → corrGe r m = 1#1 ∧ (corrStage r m).toNat = r.toNat - m.toNat) ∧
    (r.toNat < m.toNat → corrGe r m = 0#1 ∧ corrStage r m = r) ∧
    corrStageByMultiply r m = corrStage r m

/-- The two stages of R72 reduce every value below `3m`, and below `2m` the second never subtracts. (R72
is marked derived.) -/
def Obligations.TwoStagesReduceBelowThreeModuli : Prop :=
  ∀ (r0 : Word128) (m : Word64),
    (r0.toNat < 3 * m.toNat → (correct r0 m).toNat = r0.toNat % m.toNat) ∧
    (r0.toNat < 2 * m.toNat → corrGe (corrStage r0 m) m = 0#1 ∧ correct r0 m = corrStage r0 m)

/-- The widths of R75: every intermediate is exact in the bits it is held in, on every dividend of a valid
context (R74 to R76; R75 is marked derived). -/
def Obligations.EveryIntermediateFitsItsWidth : Prop :=
  ∀ (a mu : Word128) (m : Word64),
    (product a mu).toNat = a.toNat * mu.toNat ∧
    (∀ q : Word128, (estimateProduct q m).toNat = q.toNat * m.toNat) ∧
    (2 ≤ m.toNat → mu.toNat = 2 ^ 128 / m.toNat →
      (product a mu).toNat < 2 ^ 255 ∧
      (estimateProduct (qHat a mu) m).extractLsb' 128 64 = 0#64 ∧
      (correct (candidate a mu m) m).toNat < m.toNat ∧
      (correct (candidate a mu m) m).extractLsb' 64 64 = 0#64 ∧
      (remainder a m mu).toNat = (correct (candidate a mu m) m).toNat)

/-- What the second stage is for (R70, R72): with a constant one too small the estimate is at most two
low and the result is still exact. (Both rules are marked derived.) An arithmetic lemma on `qHat` and `remainder`. -/
def Obligations.TwoStagesAbsorbAMuOneTooSmall : Prop :=
  ∀ (a mu : Word128) (m : Word64), 2 ≤ m.toNat → mu.toNat + 1 = 2 ^ 128 / m.toNat →
    (qHat a mu).toNat ≤ a.toNat / m.toNat ∧ a.toNat / m.toNat ≤ (qHat a mu).toNat + 2 ∧
    (remainder a m mu).toNat = a.toNat % m.toNat

/-- R78: `REDUCE` writes no context, and its response is a function of the dividend and the context. -/
def Obligations.ReduceIsAPureFunction : Prop :=
  (∀ (aHi aLo : Word64) (s t : State), exec (.reduce aHi aLo) s = .next t →
    t.mod = s.mod ∧ t.mu = s.mu ∧ t.ctxValid = s.ctxValid) ∧
  ∀ (aHi aLo : Word64) (s s' t t' : State), s.mod = s'.mod → s.mu = s'.mu → s.ctxValid = s'.ctxValid →
    exec (.reduce aHi aLo) s = .next t → exec (.reduce aHi aLo) s' = .next t' → t.pendRsp = t'.pendRsp

/-! ## Errors and frames (spec/60_exceptions.md, spec/20_memory.md section 3) -/

/-- R82: which command reports which error, when, and with what effect; every other response is `OK`. -/
def Obligations.ErrorsAreExactlyTheTable : Prop :=
  ∀ (i : Instr) (s t : State), exec i s = .next t →
    (rspStatusOf t.pendRsp = 0b01#2 ↔ ∃ x m, i = .build x m ∧ m.toNat < 2) ∧
    (rspStatusOf t.pendRsp = 0b10#2 ↔ ∃ aHi aLo, i = .reduce aHi aLo ∧ s.ctxValid = false) ∧
    (rspStatusOf t.pendRsp = 0b11#2 ↔ (∃ x y, i = .reserved00 x y) ∨ ∃ x y, i = .reserved11 x y) ∧
    (rspStatusOf t.pendRsp ≠ 0b00#2 → rspResultOf t.pendRsp = 0#64) ∧
    (rspStatusOf t.pendRsp = 0b01#2 → t.mod = 0#64 ∧ t.mu = 0#128 ∧ t.ctxValid = false) ∧
    (rspStatusOf t.pendRsp = 0b10#2 ∨ rspStatusOf t.pendRsp = 0b11#2 →
      t.mod = s.mod ∧ t.mu = s.mu ∧ t.ctxValid = s.ctxValid)

/-- R52: the result field of a valid context's `REDUCE` is the remainder; of a `BUILD`, and of every
response that is not `OK`, it is 0. -/
def Obligations.ResultFieldIsTheRemainderOrZero : Prop :=
  ∀ (i : Instr) (s t : State), ContextInv s → exec i s = .next t →
    (∀ aHi aLo, i = .reduce aHi aLo → rspStatusOf t.pendRsp = 0b00#2 →
      (rspResultOf t.pendRsp).toNat = (aHi.toNat * 2 ^ 64 + aLo.toNat) % s.mod.toNat) ∧
    (∀ x m, i = .build x m → rspResultOf t.pendRsp = 0#64) ∧
    (rspStatusOf t.pendRsp ≠ 0b00#2 → rspResultOf t.pendRsp = 0#64)

/-- The frame of every command: what it presents is its response; the latched request, the counter, the
latencies and the host are untouched, and only `BUILD` touches the context (R17, R24, R84). -/
def Obligations.CommandsTouchOnlyContextAndResponse : Prop :=
  ∀ (i : Instr) (s t : State), exec i s = .next t →
    t = { s with mod := t.mod, mu := t.mu, ctxValid := t.ctxValid, fsm := .resp, pendRsp := t.pendRsp } ∧
    ((∀ x m, i ≠ .build x m) → t = { s with fsm := .resp, pendRsp := t.pendRsp })

/-- A command reads nothing but its operands and the context (R8, R33): two states with one context get
one response and one next context. So no error sticks (R86). -/
def Obligations.CommandsReadOnlyTheContext : Prop :=
  ∀ (i : Instr) (s s' t t' : State), s.mod = s'.mod → s.mu = s'.mu → s.ctxValid = s'.ctxValid →
    exec i s = .next t → exec i s' = .next t' →
      t.mod = t'.mod ∧ t.mu = t'.mu ∧ t.ctxValid = t'.ctxValid ∧ t.pendRsp = t'.pendRsp

/-! ## The sequencer, the ports and reset (spec/10_state.md, spec/70_reset_and_hazards.md) -/

/-- A step at the last `BUSY` edge is `exec` of the decoded latched word, and `withFetchWord` makes the very
next step that one. -/
def Obligations.StepRunsTheAcceptedCommand : Prop :=
  (∀ (s : State) (i : Instr), s.fsm = .busy → s.cnt + 1 = s.pendLatency → s.sample.rst = false →
    decode s.pendReq = i → step s = exec i { s with inputs := s.inputs.tail }) ∧
  ∀ (s : State) (nbits w : Nat),
    step (s.withFetchWord nbits w) =
      exec (decode (BitVec.ofNat 130 (w % 2 ^ nbits)))
        { s with fsm := .busy, pendReq := BitVec.ofNat 130 (w % 2 ^ nbits),
                 cnt := latencyOf s.lat (reqOp (BitVec.ofNat 130 (w % 2 ^ nbits))) - 1 }

/-- R100: when a request transfers, what that latches, and that a request that does not transfer has no
effect. -/
def Obligations.RequestTransfersOnlyWhenReady : Prop :=
  (∀ s : State, s.sample.rst = false → s.sample.reqValid = true → reqReady s.sample.rst s = true →
    step s = .next { s with fsm := .busy, cnt := 0, inputs := s.inputs.tail,
                            pendReq := mkReq s.sample.op s.sample.opnd0 s.sample.opnd1 }) ∧
  ∀ (p : PortIn) (s : State), reqReady p.rst s = false →
    clockEdge p s = clockEdge { p with reqValid := false } s

/-- R24: the three transitions, their waiting cases, the latency of each `op`, and the response after
exactly `LAT(op)` edges. -/
def Obligations.SequencerMovesAsItsRuleSays : Prop :=
  (∀ s : State, s.sample.rst = false → s.fsm = .idle →
    (s.sample.reqValid = true →
      step s = .next { s with fsm := .busy, pendReq := s.sample.word, cnt := 0, inputs := s.inputs.tail }) ∧
    (s.sample.reqValid = false → step s = .next { s with inputs := s.inputs.tail })) ∧
  (∀ s : State, s.sample.rst = false → s.fsm = .busy →
    (s.cnt + 1 = s.pendLatency → ∃ t, exec (decode s.pendReq) { s with inputs := s.inputs.tail } = .next t ∧
      step s = .next t ∧ t.fsm = .resp) ∧
    (s.cnt + 1 ≠ s.pendLatency → step s = .next { s with cnt := s.cnt + 1, inputs := s.inputs.tail })) ∧
  (∀ s : State, s.sample.rst = false → s.fsm = .resp →
    (s.sample.rspReady = true →
      step s = .next { s with fsm := .idle, inputs := s.inputs.tail, taken := s.taken ++ [s.pendRsp] }) ∧
    (s.sample.rspReady = false → step s = .next { s with inputs := s.inputs.tail })) ∧
  (∀ l : Latencies, latencyOf l 0b01#2 = l.build ∧ latencyOf l 0b10#2 = l.reduce ∧
    latencyOf l 0b00#2 = l.illegal ∧ latencyOf l 0b11#2 = l.illegal) ∧
  ∀ s : State, s.fsm = .idle → s.sample.reqValid = true →
    (∀ p ∈ s.inputs.take (1 + latencyOf s.lat s.sample.op), p.rst = false) →
    ∃ t, Sys2Proof.core.run (1 + latencyOf s.lat s.sample.op) s = .next t ∧ t.fsm = .resp ∧
      t.pendReq = s.sample.word

/-- R103: a presented response stands on the ports unchanged, for as long as the host withholds
`rsp_ready`, and transfers at the edge where it does not. -/
def Obligations.ResponseIsHeldUntilTaken : Prop :=
  ∀ s : State, s.fsm = .resp →
    rspValid false s = true ∧ (outputs false s).rspStatus = rspStatusOf s.pendRsp ∧
    (outputs false s).rspResult = rspResultOf s.pendRsp ∧
    (s.sample.rst = false → s.sample.rspReady = true →
      step s = .next { s with fsm := .idle, inputs := s.inputs.tail, taken := s.taken ++ [s.pendRsp] }) ∧
    ∀ k : Nat, (∀ p ∈ s.inputs.take k, p.rst = false ∧ p.rspReady = false) →
      Sys2Proof.core.run k s = .next { s with inputs := s.inputs.drop k }

/-- R94: at an edge with `rst = 1` every register takes its reset value, whatever the state and the
other inputs; the host's record of taken responses stays, so an outstanding command is lost (R97). -/
def Obligations.ResetEdgeResetsEverything : Prop :=
  ∀ s : State, s.sample.rst = true →
    step s = .next { s with mod := 0#64, mu := 0#128, ctxValid := false, fsm := .idle, pendReq := 0#130,
                            pendRsp := 0#66, cnt := 0, inputs := s.inputs.tail }

/-- R28: the value of every register and output after reset, in every implementation, and that
`State.reset` is such a state. -/
def Obligations.ResetStateHoldsTheResetValues : Prop :=
  (∀ l : Latencies, (State.resetWith l).mod = 0#64 ∧ (State.resetWith l).mu = 0#128 ∧
    (State.resetWith l).ctxValid = false ∧ (State.resetWith l).fsm = .idle ∧
    (State.resetWith l).pendReq = 0#130 ∧ (State.resetWith l).pendRsp = 0#66 ∧ (State.resetWith l).cnt = 0 ∧
    outputs true (State.resetWith l) =
      { reqReady := false, rspValid := false, rspStatus := 0#2, rspResult := 0#64, ctxValid := false } ∧
    outputs false (State.resetWith l) =
      { reqReady := true, rspValid := false, rspStatus := 0#2, rspResult := 0#64, ctxValid := false }) ∧
  ∃ l : Latencies, State.reset = State.resetWith l

/-- R95 and R96: the outputs while `rst = 1` in any state, and after the last reset edge. (That R95 wins
over R25 in a reset cycle with `FSM = RESP` is log entry 6, DEDUCED.) -/
def Obligations.OutputsAreQuietInReset : Prop :=
  ∀ s : State,
    (outputs true s).reqReady = false ∧ (outputs true s).rspValid = false ∧
    (outputs true s).rspStatus = 0#2 ∧ (outputs true s).rspResult = 0#64 ∧
    (s.sample.rst = true → requestTransfers s.sample s = false ∧
      ∃ t, step s = .next t ∧ t.fsm = .idle ∧ (outputs true t).ctxValid = false ∧
        (outputs false t).ctxValid = false ∧ (outputs false t).reqReady = true)

/-- The output ports in operation (R25, R26; the gating by `rst` is log entry 6). -/
def Obligations.OutputsFollowTheState : Prop :=
  ∀ s : State,
    ((outputs false s).reqReady = true ↔ s.fsm = .idle) ∧
    ((outputs false s).rspValid = true ↔ s.fsm = .resp) ∧
    (outputs false s).ctxValid = s.ctxValid ∧
    ((outputs false s).rspValid = true →
      (outputs false s).rspStatus ++ (outputs false s).rspResult = s.pendRsp) ∧
    ((outputs false s).rspValid = false → (outputs false s).rspStatus = 0#2 ∧ (outputs false s).rspResult = 0#64)

/-- R18: `MOD` and `MU` reach no output port. -/
def Obligations.ContextIsOpaqueOnThePorts : Prop :=
  ∀ (rst : Bool) (s : State) (m : Word64) (mu : Word128), outputs rst { s with mod := m, mu := mu } = outputs rst s

/-- The invariant is kept by every clock edge, from every state that has it: the context is what R16
says, the counter is in range, and a presented response is the right one (R16, R23, R87). -/
def Obligations.EveryEdgeKeepsTheInvariant : Prop :=
  ∀ s t : State, Inv s → step s = .next t → Inv t

/-- The invariant holds after reset, in every implementation and for every host. -/
def Obligations.ResetHasTheInvariant : Prop :=
  ∀ (l : Latencies) (ps : List PortIn), Inv { State.resetWith l with inputs := ps }

/-- R16 and R87 in every state a run can reach, for every host and every implementation: a valid context
holds the exact constant, and `OK` stands only beside the exact remainder. -/
def Obligations.EveryReachableAnswerIsRight : Prop :=
  ∀ (l : Latencies) (ps : List PortIn) (k : Nat) (t : State),
    Sys2Proof.core.run k { State.resetWith l with inputs := ps } = .next t →
      (t.ctxValid = true → 2 ≤ t.mod.toNat ∧ t.mod.toNat ≤ 2 ^ 64 - 1 ∧ t.mu.toNat = 2 ^ 128 / t.mod.toNat) ∧
      (rspValid false t = true → (outputs false t).rspStatus = 0b00#2 →
        t.ctxValid = true ∧
        ∀ aHi aLo, decode t.pendReq = .reduce aHi aLo →
          ((outputs false t).rspResult).toNat = (aHi.toNat * 2 ^ 64 + aLo.toNat) % t.mod.toNat)

/-- R17 and R26: only a `BUILD` at the edge where its response is first presented, and reset, write the
context; and only a legal `BUILD` makes it valid. -/
def Obligations.OnlyBuildAndResetWriteTheContext : Prop :=
  ∀ s t : State, step s = .next t →
    ((t.mod ≠ s.mod ∨ t.mu ≠ s.mu ∨ t.ctxValid ≠ s.ctxValid) →
      s.sample.rst = true ∨ (s.fsm = .busy ∧ t.fsm = .resp ∧ ∃ x m, decode s.pendReq = .build x m)) ∧
    (∀ rst, (outputs rst s).ctxValid = s.ctxValid) ∧
    (s.ctxValid = false → t.ctxValid = true →
      ∃ x m, decode s.pendReq = .build x m ∧ 2 ≤ m.toNat ∧ t.mod = m)

/-- The block is never stopped (R81): every edge in every state has a next state, with the latencies as
they were, the host one sample on, and at most the presented response taken. -/
def Obligations.NoEdgeStopsTheBlock : Prop :=
  ∀ s : State, ∃ t, step s = .next t ∧ t.lat = s.lat ∧ t.inputs = s.inputs.tail ∧
    (t.taken = s.taken ∨ (responseTransfers s.sample s = true ∧ t.taken = s.taken ++ [s.pendRsp]))

/-- R8: the whole handshake around a command delivers exactly the atomic `Exec`. Whatever the host drives
in between (but reset), from the accepting edge to the edge that takes the response, the context is
that of `exec` and the response taken is that of `exec`. -/
def Obligations.HandshakeDeliversTheTransaction : Prop :=
  ∀ (s : State) (w : ReqWord) (p take : PortIn) (busy stall rest : List PortIn),
    s.fsm = .idle → s.inputs = p :: (busy ++ stall ++ take :: rest) →
    p.rst = false → p.reqValid = true → p.word = w →
    (∀ q ∈ busy ++ stall, q.rst = false) → busy.length = latencyOf s.lat (reqOp w) →
    (∀ q ∈ stall, q.rspReady = false) → take.rst = false → take.rspReady = true →
    ∃ t u, exec (decode w) s = .next t ∧
      Sys2Proof.core.run (busy.length + stall.length + 2) s = .next u ∧
      u.mod = t.mod ∧ u.mu = t.mu ∧ u.ctxValid = t.ctxValid ∧ u.fsm = .idle ∧ u.lat = s.lat ∧
      u.inputs = rest ∧ u.taken = s.taken ++ [t.pendRsp]

/-- R35: a stream of commands, served one after another with any stalls, executes in the order of
acceptance: the context and the responses are those of the atomic commands in order. -/
def Obligations.CommandStreamExecutesInOrder : Prop :=
  ∀ (s : State) (cs : List (ReqWord × Nat)) (rest : List PortIn),
    s.fsm = .idle → s.inputs = serveAll s.lat cs ++ rest →
    ∃ t u, execWords (cs.map Prod.fst) s = .next t ∧
      Sys2Proof.core.run (serveAll s.lat cs).length s = .next u ∧
      u.mod = t.mod ∧ u.mu = t.mu ∧ u.ctxValid = t.ctxValid ∧ u.fsm = .idle ∧ u.inputs = rest ∧
      u.taken = s.taken ++ responsesOf (cs.map Prod.fst) s

/-- R108: two runs that differ only in operands, context, status and results take every handshake step
at the same edges, for ever: the latency depends on `op` only. -/
def Obligations.TimingDependsOnOpOnly : Prop :=
  ∀ (k : Nat) (s s' t t' : State), SameTiming s s' →
    Sys2Proof.core.run k s = .next t → Sys2Proof.core.run k s' = .next t' →
      SameTiming t t' ∧ ∀ rst, reqReady rst t = reqReady rst t' ∧ rspValid rst t = rspValid rst t'

/-- R109: an accepted command is in `BUSY` until, after exactly the edges its latency leaves, it is in
`RESP`, unless reset intervenes. -/
def Obligations.AcceptedCommandReachesItsResponse : Prop :=
  ∀ s : State, s.fsm = .busy → s.cnt < s.pendLatency →
    (∀ p ∈ s.inputs.take (s.pendLatency - s.cnt), p.rst = false) →
    (∃ t, Sys2Proof.core.run (s.pendLatency - s.cnt) s = .next t ∧ t.fsm = .resp ∧ t.pendReq = s.pendReq) ∧
    ∀ j : Nat, j < s.pendLatency - s.cnt →
      ∃ u, Sys2Proof.core.run j s = .next u ∧ u.fsm = .busy ∧ u.pendReq = s.pendReq

/-- R102: accepting a command drops `req_ready`, and only the transfer of the response (or reset) raises it
again, in the cycle after that edge. -/
def Obligations.OneCommandIsOutstanding : Prop :=
  ∀ s t : State, step s = .next t →
    (requestTransfers s.sample s = true → ∀ rst, reqReady rst t = false) ∧
    (reqReady false s = false → reqReady false t = true →
      s.sample.rst = true ∨ responseTransfers s.sample s = true) ∧
    (responseTransfers s.sample s = true → requestTransfers s.sample s = false ∧ reqReady false t = true)

/-- R101: with a host that holds a waiting request, the word that transfers is the word first presented,
and what is latched is the word sampled at the transferring edge. -/
def Obligations.HeldRequestIsTheOneAccepted : Prop :=
  (∀ (k : Nat) (s : State) (w : ReqWord), HostHolds k s → s.sample.reqValid = true →
    firstAccepted k s = some w → w = s.sample.word) ∧
  ∀ s t : State, requestTransfers s.sample s = true → step s = .next t → t.pendReq = s.sample.word

/-- R98: with a host that builds first, every `REDUCE` of the stream gets `OK`; and before any legal
`BUILD` every `REDUCE` gets `NO_CONTEXT`. -/
def Obligations.BuildingFirstIsEnough : Prop :=
  (∀ (ws : List ReqWord) (s : State) (k : Nat) (w : ReqWord) (r : RspWord),
    buildsFirst s.ctxValid ws = true → ws[k]? = some w → (responsesOf ws s)[k]? = some r →
    reqOp w = 0b10#2 → rspStatusOf r = 0b00#2) ∧
  ∀ (ws : List ReqWord) (s : State) (k : Nat) (w : ReqWord) (r : RspWord),
    s.ctxValid = false → (∀ v ∈ ws, isLegalBuild v = false) → ws[k]? = some w →
    (responsesOf ws s)[k]? = some r → reqOp w = 0b10#2 → r = 0x20000000000000000#66
end

