-- ==== Sys2Proof/Laws/Fields.lean ====
section
/-! SUPPORT. The fields of request and response words (R41, R50), the values of the operand forms (R30, R66)
and of the exact products (R75). -/

namespace Sys2Proof

@[simp] theorem reqOp_mkReq (op : OpCode) (x y : Word64) : reqOp (mkReq op x y) = op := by
  apply BitVec.eq_of_getElem_eq
  intro i hi
  simp only [reqOp, mkReq, BitVec.getElem_extractLsb', BitVec.getLsbD_append]
  rw [if_neg (by omega), if_neg (by omega), show 128 + i - 64 - 64 = i by omega,
    BitVec.getLsbD_eq_getElem hi]

@[simp] theorem reqOpnd0_mkReq (op : OpCode) (x y : Word64) : reqOpnd0 (mkReq op x y) = x := by
  apply BitVec.eq_of_getElem_eq
  intro i hi
  simp only [reqOpnd0, mkReq, BitVec.getElem_extractLsb', BitVec.getLsbD_append]
  rw [if_neg (by omega), if_pos (by omega), show 64 + i - 64 = i by omega, BitVec.getLsbD_eq_getElem hi]

@[simp] theorem reqOpnd1_mkReq (op : OpCode) (x y : Word64) : reqOpnd1 (mkReq op x y) = y := by
  apply BitVec.eq_of_getElem_eq
  intro i hi
  simp only [reqOpnd1, mkReq, BitVec.getElem_extractLsb', BitVec.getLsbD_append]
  rw [if_pos (by omega), show 0 + i = i by omega, BitVec.getLsbD_eq_getElem hi]

/-- A request word is its three fields and nothing else. -/
@[simp] theorem mkReq_fields (w : ReqWord) : mkReq (reqOp w) (reqOpnd0 w) (reqOpnd1 w) = w := by
  simp only [reqOp, reqOpnd0, reqOpnd1, mkReq]
  apply BitVec.eq_of_getElem_eq
  intro i hi
  simp only [BitVec.getElem_append, BitVec.getElem_extractLsb']
  split
  · simp [BitVec.getLsbD_eq_getElem hi]
  · split
    · rw [show 64 + (i - 64) = i by omega, BitVec.getLsbD_eq_getElem hi]
    · rw [show 128 + (i - 64 - 64) = i by omega, BitVec.getLsbD_eq_getElem hi]

theorem mkReq_toNat (op : OpCode) (x y : Word64) :
    (mkReq op x y).toNat = op.toNat * 2 ^ 128 + x.toNat * 2 ^ 64 + y.toNat := by
  simp only [mkReq, BitVec.toNat_append]
  rw [← Nat.shiftLeft_add_eq_or_of_lt y.isLt, ← Nat.shiftLeft_add_eq_or_of_lt x.isLt]
  simp only [Nat.shiftLeft_eq]
  ring

/-- An `op` is one of the four codes of R42. -/
theorem op_cases (op : OpCode) : op = opReserved00 ∨ op = opBuild ∨ op = opReduce ∨ op = opReserved11 := by
  revert op
  decide

/-- The encoder puts a command's `op` code (R42) into the word's `op` field. -/
theorem reqOp_encode (i : Instr) : reqOp (encode i) = i.op := by
  cases i <;> simp [encode, Instr.op]

theorem decode_of_build (w : ReqWord) (h : reqOp w = opBuild) :
    decode w = .build (reqOpnd0 w) (reqOpnd1 w) := by
  simp [decode, h]

theorem decode_of_reduce (w : ReqWord) (h : reqOp w = opReduce) :
    decode w = .reduce (reqOpnd0 w) (reqOpnd1 w) := by
  simp [decode, h, opBuild, opReduce]

theorem decode_of_reserved00 (w : ReqWord) (h : reqOp w = opReserved00) :
    decode w = .reserved00 (reqOpnd0 w) (reqOpnd1 w) := by
  simp [decode, h, opBuild, opReduce, opReserved00]

theorem decode_of_reserved11 (w : ReqWord) (h : reqOp w = opReserved11) :
    decode w = .reserved11 (reqOpnd0 w) (reqOpnd1 w) := by
  simp [decode, h, opBuild, opReduce, opReserved00, opReserved11]

namespace Machine

@[simp] theorem rspStatusOf_mkRsp (st : Status) (r : Word64) : rspStatusOf (mkRsp st r) = st.code := by
  apply BitVec.eq_of_getElem_eq
  intro i hi
  simp only [rspStatusOf, mkRsp, BitVec.getElem_extractLsb', BitVec.getLsbD_append]
  rw [if_neg (by omega), show 64 + i - 64 = i by omega, BitVec.getLsbD_eq_getElem hi]

@[simp] theorem rspResultOf_mkRsp (st : Status) (r : Word64) : rspResultOf (mkRsp st r) = r := by
  apply BitVec.eq_of_getElem_eq
  intro i hi
  simp only [rspResultOf, mkRsp, BitVec.getElem_extractLsb', BitVec.getLsbD_append]
  rw [if_pos (by omega), show 0 + i = i by omega, BitVec.getLsbD_eq_getElem hi]

theorem mkRsp_toNat (st : Status) (r : Word64) :
    (mkRsp st r).toNat = st.code.toNat * 2 ^ 64 + r.toNat := by
  simp only [mkRsp, BitVec.toNat_append]
  rw [← Nat.shiftLeft_add_eq_or_of_lt r.isLt, Nat.shiftLeft_eq]

theorem dividend_toNat (aHi aLo : Word64) : (dividend aHi aLo).toNat = aHi.toNat * 2 ^ 64 + aLo.toNat := by
  simp only [dividend, BitVec.toNat_append]
  rw [← Nat.shiftLeft_add_eq_or_of_lt aLo.isLt, Nat.shiftLeft_eq]

theorem portIn_word_eq (p : PortIn) : p.word = mkReq p.op p.opnd0 p.opnd1 := rfl

@[simp] theorem presentRequest_word (w : ReqWord) : (presentRequest w).word = w := by
  rw [portIn_word_eq]
  exact mkReq_fields w

theorem zext_toNat {w n : Nat} (v : BitVec w) (h : w ≤ n) : (zext n v).toNat = v.toNat := by
  rw [zext, BitVec.toNat_setWidth, Nat.mod_eq_of_lt]
  exact lt_of_lt_of_le v.isLt (Nat.pow_le_pow_right (by decide) h)

@[simp] theorem replicateBit_one (n : Nat) : replicateBit n 1#1 = BitVec.allOnes n := by
  apply BitVec.eq_of_getElem_eq
  intro i hi
  simp only [replicateBit, BitVec.getElem_signExtend]
  split
  · obtain rfl : i = 0 := by omega
    simp
  · simp [BitVec.msb_eq_getLsbD_last]

@[simp] theorem replicateBit_zero (n : Nat) : replicateBit n 0#1 = 0#n := by
  apply BitVec.eq_of_getElem_eq
  intro i hi
  simp only [replicateBit, BitVec.getElem_signExtend]
  split <;> simp_all

/-- `P` is exact (R75, R76). -/
theorem product_toNat (a mu : Word128) : (product a mu).toNat = a.toNat * mu.toNat := by
  rw [product, BitVec.toNat_mul, zext_toNat _ (by decide), zext_toNat _ (by decide), Nat.mod_eq_of_lt]
  exact lt_of_lt_of_le (Nat.mul_lt_mul'' a.isLt mu.isLt) (by decide)

/-- `q_hat` is the product's upper half (R68). -/
theorem qHat_toNat (a mu : Word128) : (qHat a mu).toNat = a.toNat * mu.toNat / 2 ^ 128 := by
  rw [qHat, BitVec.extractLsb'_toNat, product_toNat, Nat.shiftRight_eq_div_pow, Nat.mod_eq_of_lt]
  rw [Nat.div_lt_iff_lt_mul (by decide)]
  exact Nat.mul_lt_mul'' a.isLt mu.isLt

/-- The full 192-bit product is exact (R75, R76). -/
theorem estimateProduct_toNat (q : Word128) (m : Word64) : (estimateProduct q m).toNat = q.toNat * m.toNat := by
  rw [estimateProduct, BitVec.toNat_mul, zext_toNat _ (by decide), zext_toNat _ (by decide), Nat.mod_eq_of_lt]
  exact lt_of_lt_of_le (Nat.mul_lt_mul'' q.isLt m.isLt) (by decide)

end Machine

end Sys2Proof
end

