-- ==== Sys2Proof/Laws/State.lean ====
section
/-! SUPPORT. One lemma per field per named update of State, each true by unfolding, so that no later
proof unfolds a record update. -/

namespace Sys2Proof.Machine

section respond

variable (s : State) (st : Status) (r : Word64)

@[simp] theorem State.respond_mod : (s.respond st r).mod = s.mod := rfl
@[simp] theorem State.respond_mu : (s.respond st r).mu = s.mu := rfl
@[simp] theorem State.respond_ctxValid : (s.respond st r).ctxValid = s.ctxValid := rfl
@[simp] theorem State.respond_fsm : (s.respond st r).fsm = .resp := rfl
@[simp] theorem State.respond_pendReq : (s.respond st r).pendReq = s.pendReq := rfl
@[simp] theorem State.respond_pendRsp : (s.respond st r).pendRsp = mkRsp st r := rfl
@[simp] theorem State.respond_cnt : (s.respond st r).cnt = s.cnt := rfl
@[simp] theorem State.respond_lat : (s.respond st r).lat = s.lat := rfl
@[simp] theorem State.respond_inputs : (s.respond st r).inputs = s.inputs := rfl
@[simp] theorem State.respond_taken : (s.respond st r).taken = s.taken := rfl

end respond

section respondError

variable (s : State) (st : Status)

@[simp] theorem State.respondError_mod : (s.respondError st).mod = s.mod := rfl
@[simp] theorem State.respondError_mu : (s.respondError st).mu = s.mu := rfl
@[simp] theorem State.respondError_ctxValid : (s.respondError st).ctxValid = s.ctxValid := rfl
@[simp] theorem State.respondError_fsm : (s.respondError st).fsm = .resp := rfl
@[simp] theorem State.respondError_pendReq : (s.respondError st).pendReq = s.pendReq := rfl
@[simp] theorem State.respondError_pendRsp : (s.respondError st).pendRsp = mkRsp st 0#64 := rfl
@[simp] theorem State.respondError_cnt : (s.respondError st).cnt = s.cnt := rfl
@[simp] theorem State.respondError_lat : (s.respondError st).lat = s.lat := rfl
@[simp] theorem State.respondError_inputs : (s.respondError st).inputs = s.inputs := rfl
@[simp] theorem State.respondError_taken : (s.respondError st).taken = s.taken := rfl

end respondError

section writeContext

variable (s : State) (m : Word64) (mu : Word128) (v : Bool)

@[simp] theorem State.writeContext_mod : (s.writeContext m mu v).mod = m := rfl
@[simp] theorem State.writeContext_mu : (s.writeContext m mu v).mu = mu := rfl
@[simp] theorem State.writeContext_ctxValid : (s.writeContext m mu v).ctxValid = v := rfl
@[simp] theorem State.writeContext_fsm : (s.writeContext m mu v).fsm = s.fsm := rfl
@[simp] theorem State.writeContext_pendReq : (s.writeContext m mu v).pendReq = s.pendReq := rfl
@[simp] theorem State.writeContext_pendRsp : (s.writeContext m mu v).pendRsp = s.pendRsp := rfl
@[simp] theorem State.writeContext_cnt : (s.writeContext m mu v).cnt = s.cnt := rfl
@[simp] theorem State.writeContext_lat : (s.writeContext m mu v).lat = s.lat := rfl
@[simp] theorem State.writeContext_inputs : (s.writeContext m mu v).inputs = s.inputs := rfl
@[simp] theorem State.writeContext_taken : (s.writeContext m mu v).taken = s.taken := rfl

end writeContext

section clearContext

variable (s : State)

@[simp] theorem State.clearContext_mod : (s.clearContext).mod = 0#64 := rfl
@[simp] theorem State.clearContext_mu : (s.clearContext).mu = 0#128 := rfl
@[simp] theorem State.clearContext_ctxValid : (s.clearContext).ctxValid = false := rfl
@[simp] theorem State.clearContext_fsm : (s.clearContext).fsm = s.fsm := rfl
@[simp] theorem State.clearContext_pendReq : (s.clearContext).pendReq = s.pendReq := rfl
@[simp] theorem State.clearContext_pendRsp : (s.clearContext).pendRsp = s.pendRsp := rfl
@[simp] theorem State.clearContext_cnt : (s.clearContext).cnt = s.cnt := rfl
@[simp] theorem State.clearContext_lat : (s.clearContext).lat = s.lat := rfl
@[simp] theorem State.clearContext_inputs : (s.clearContext).inputs = s.inputs := rfl
@[simp] theorem State.clearContext_taken : (s.clearContext).taken = s.taken := rfl

end clearContext

section applyReset

variable (s : State)

@[simp] theorem State.applyReset_mod : (s.applyReset).mod = 0#64 := rfl
@[simp] theorem State.applyReset_mu : (s.applyReset).mu = 0#128 := rfl
@[simp] theorem State.applyReset_ctxValid : (s.applyReset).ctxValid = false := rfl
@[simp] theorem State.applyReset_fsm : (s.applyReset).fsm = .idle := rfl
@[simp] theorem State.applyReset_pendReq : (s.applyReset).pendReq = 0#130 := rfl
@[simp] theorem State.applyReset_pendRsp : (s.applyReset).pendRsp = 0#66 := rfl
@[simp] theorem State.applyReset_cnt : (s.applyReset).cnt = 0 := rfl
@[simp] theorem State.applyReset_lat : (s.applyReset).lat = s.lat := rfl
@[simp] theorem State.applyReset_inputs : (s.applyReset).inputs = s.inputs := rfl
@[simp] theorem State.applyReset_taken : (s.applyReset).taken = s.taken := rfl

end applyReset

section sampled

variable (s : State)

@[simp] theorem State.sampled_mod : (s.sampled).mod = s.mod := rfl
@[simp] theorem State.sampled_mu : (s.sampled).mu = s.mu := rfl
@[simp] theorem State.sampled_ctxValid : (s.sampled).ctxValid = s.ctxValid := rfl
@[simp] theorem State.sampled_fsm : (s.sampled).fsm = s.fsm := rfl
@[simp] theorem State.sampled_pendReq : (s.sampled).pendReq = s.pendReq := rfl
@[simp] theorem State.sampled_pendRsp : (s.sampled).pendRsp = s.pendRsp := rfl
@[simp] theorem State.sampled_cnt : (s.sampled).cnt = s.cnt := rfl
@[simp] theorem State.sampled_lat : (s.sampled).lat = s.lat := rfl
@[simp] theorem State.sampled_inputs : (s.sampled).inputs = s.inputs.tail := rfl
@[simp] theorem State.sampled_taken : (s.sampled).taken = s.taken := rfl

end sampled

section resetWith

variable (l : Latencies)

@[simp] theorem State.resetWith_mod : (State.resetWith l).mod = 0#64 := rfl
@[simp] theorem State.resetWith_mu : (State.resetWith l).mu = 0#128 := rfl
@[simp] theorem State.resetWith_ctxValid : (State.resetWith l).ctxValid = false := rfl
@[simp] theorem State.resetWith_fsm : (State.resetWith l).fsm = .idle := rfl
@[simp] theorem State.resetWith_pendReq : (State.resetWith l).pendReq = 0#130 := rfl
@[simp] theorem State.resetWith_pendRsp : (State.resetWith l).pendRsp = 0#66 := rfl
@[simp] theorem State.resetWith_cnt : (State.resetWith l).cnt = 0 := rfl
@[simp] theorem State.resetWith_lat : (State.resetWith l).lat = l := rfl
@[simp] theorem State.resetWith_inputs : (State.resetWith l).inputs = [] := rfl
@[simp] theorem State.resetWith_taken : (State.resetWith l).taken = [] := rfl

end resetWith

@[simp] theorem State.sample_nil (s : State) (h : s.inputs = []) : s.sample = PortIn.quiet := by
  simp [State.sample, h]

@[simp] theorem State.sample_cons (s : State) (p : PortIn) (ps : List PortIn) (h : s.inputs = p :: ps) :
    s.sample = p := by
  simp [State.sample, h]

end Sys2Proof.Machine
end

