-- ==== Sys2Proof/Laws/Exec.lean ====
section
/-! SUPPORT. Said once: everything a command can do, everything a clock edge can do, and how runs unfold. -/

namespace Sys2Proof.Machine

/-- Everything a command can do (R56, R61, R65, R80, R82). -/
theorem exec_cases {i : Instr} {s t : State} (h : exec i s = .next t) :
    (∃ x m, i = .build x m ∧ m < 2#64 ∧ t = s.clearContext.respondError .invalidModulus) ∨
    (∃ x m, i = .build x m ∧ ¬ m < 2#64 ∧ t = (s.writeContext m (muOf m) true).respond .ok 0#64) ∨
    (∃ aHi aLo, i = .reduce aHi aLo ∧ s.ctxValid = false ∧ t = s.respondError .noContext) ∨
    (∃ aHi aLo, i = .reduce aHi aLo ∧ s.ctxValid = true ∧
      t = s.respond .ok (remainder (dividend aHi aLo) s.mod s.mu)) ∨
    (∃ x y, (i = .reserved00 x y ∨ i = .reserved11 x y) ∧ t = s.respondError .illegalOp) := by
  cases i with
  | build x m =>
    by_cases hm : m < 2#64
    · exact .inl ⟨x, m, rfl, hm, by simpa [exec, execBuild, hm] using h.symm⟩
    · exact .inr (.inl ⟨x, m, rfl, hm, by simpa [exec, execBuild, hm] using h.symm⟩)
  | reduce aHi aLo =>
    cases hc : s.ctxValid with
    | false => exact .inr (.inr (.inl ⟨aHi, aLo, rfl, rfl, by simpa [exec, execReduce, hc] using h.symm⟩))
    | true =>
      exact .inr (.inr (.inr (.inl ⟨aHi, aLo, rfl, rfl, by simpa [exec, execReduce, hc] using h.symm⟩)))
  | reserved00 x y =>
    exact .inr (.inr (.inr (.inr ⟨x, y, .inl rfl, by simpa [exec, execReserved00] using h.symm⟩)))
  | reserved11 x y =>
    exact .inr (.inr (.inr (.inr ⟨x, y, .inr rfl, by simpa [exec, execReserved11] using h.symm⟩)))

/-- Every command ends with a response presented (R50), and touches nothing of the sequencer and the
host but that. -/
theorem exec_presents {i : Instr} {s t : State} (h : exec i s = .next t) :
    t.fsm = .resp ∧ t.pendReq = s.pendReq ∧ t.cnt = s.cnt ∧ t.lat = s.lat ∧ t.inputs = s.inputs ∧
      t.taken = s.taken := by
  rcases exec_cases h with ⟨_, _, _, _, rfl⟩ | ⟨_, _, _, _, rfl⟩ | ⟨_, _, _, _, rfl⟩ | ⟨_, _, _, _, rfl⟩ |
    ⟨_, _, _, rfl⟩ <;> simp

/-- Everything one rising edge can do (R24, R94, R100, R103). -/
theorem step_cases {s t : State} (h : step s = .next t) :
    (s.sample.rst = true ∧ t = s.sampled.applyReset) ∨
    (s.sample.rst = false ∧ s.fsm = .idle ∧ s.sample.reqValid = true ∧
      t = { s.sampled with fsm := .busy, pendReq := s.sample.word, cnt := 0 }) ∨
    (s.sample.rst = false ∧ s.fsm = .idle ∧ s.sample.reqValid = false ∧ t = s.sampled) ∨
    (s.sample.rst = false ∧ s.fsm = .busy ∧ s.cnt + 1 = s.pendLatency ∧
      exec (decode s.pendReq) s.sampled = .next t) ∨
    (s.sample.rst = false ∧ s.fsm = .busy ∧ s.cnt + 1 ≠ s.pendLatency ∧
      t = { s.sampled with cnt := s.cnt + 1 }) ∨
    (s.sample.rst = false ∧ s.fsm = .resp ∧ s.sample.rspReady = true ∧
      t = { s.sampled with fsm := .idle, taken := s.taken ++ [s.pendRsp] }) ∨
    (s.sample.rst = false ∧ s.fsm = .resp ∧ s.sample.rspReady = false ∧ t = s.sampled) := by
  unfold step clockEdge at h
  split at h
  · exact .inl ⟨‹_›, by simpa using h.symm⟩
  · have hr : s.sample.rst = false := by simpa using ‹¬ s.sample.rst = true›
    split at h
    · have hf : s.fsm = .idle := ‹_›
      cases hv : s.sample.reqValid with
      | true =>
        exact .inr (.inl ⟨hr, hf, rfl, by
          simpa [idleEdge, requestTransfers, reqReady, hf, hv, hr] using h.symm⟩)
      | false =>
        exact .inr (.inr (.inl ⟨hr, hf, rfl, by
          simpa [idleEdge, requestTransfers, hv] using h.symm⟩))
    · have hf : s.fsm = .busy := ‹_›
      unfold busyEdge at h
      by_cases hc : s.cnt + 1 = s.pendLatency
      · have hc' : commits s.sampled = true := by simpa [commits, State.pendLatency] using hc
        exact .inr (.inr (.inr (.inl ⟨hr, hf, hc, by simpa [hc'] using h⟩)))
      · have hc' : commits s.sampled = false := by simpa [commits, State.pendLatency] using hc
        exact .inr (.inr (.inr (.inr (.inl ⟨hr, hf, hc, by simpa [hc'] using h.symm⟩))))
    · have hf : s.fsm = .resp := ‹_›
      cases hv : s.sample.rspReady with
      | true =>
        exact .inr (.inr (.inr (.inr (.inr (.inl ⟨hr, hf, rfl, by
          simpa [respEdge, responseTransfers, rspValid, hf, hv, hr] using h.symm⟩)))))
      | false =>
        exact .inr (.inr (.inr (.inr (.inr (.inr ⟨hr, hf, rfl, by
          simpa [respEdge, responseTransfers, hv] using h.symm⟩)))))

theorem run_zero (s : State) : Sys2Proof.core.run 0 s = .next s := rfl

theorem run_succ (k : Nat) {s t : State} (h : step s = .next t) :
    Sys2Proof.core.run (k + 1) s = Sys2Proof.core.run k t := by
  simp only [Host.Core.run]
  rw [show Sys2Proof.core.step s = .next t from h]

/-- A run of `j + k` steps is a run of `k` steps after a run of `j`. -/
theorem run_add (j k : Nat) {s t : State} (h : Sys2Proof.core.run j s = .next t) :
    Sys2Proof.core.run (j + k) s = Sys2Proof.core.run k t := by
  induction j generalizing s with
  | zero =>
    obtain rfl : s = t := Host.Outcome.next.inj h
    rw [Nat.zero_add]
  | succ j ih =>
    rw [show j + 1 + k = (j + k) + 1 by omega]
    simp only [Host.Core.run] at h ⊢
    split at h
    · exact ih h
    · cases h
    · cases h

end Sys2Proof.Machine
end

