-- ==== Sys2Proof/Laws/PerInstr.lean ====
section
/-! SUPPORT. The family EncodedFields: what each field of a command's request word holds (R41 to R44). -/

namespace Sys2Proof.Laws.EncodedFields

/-- The word of a command holds its `op` code and its two operands, in that order. -/
def Statement (i : Instr) : Prop :=
  reqOp (encode i) = i.op ∧
    match i with
    | .build ignored m => reqOpnd0 (encode i) = ignored ∧ reqOpnd1 (encode i) = m
    | .reduce aHi aLo => reqOpnd0 (encode i) = aHi ∧ reqOpnd1 (encode i) = aLo
    | .reserved00 x y => reqOpnd0 (encode i) = x ∧ reqOpnd1 (encode i) = y
    | .reserved11 x y => reqOpnd0 (encode i) = x ∧ reqOpnd1 (encode i) = y

theorem build (ignored m : Word64) : Statement (.build ignored m) := by
  simp [Statement, encode, Instr.op]

theorem reduce (aHi aLo : Word64) : Statement (.reduce aHi aLo) := by
  simp [Statement, encode, Instr.op]

theorem reserved00 (x y : Word64) : Statement (.reserved00 x y) := by
  simp [Statement, encode, Instr.op]

theorem reserved11 (x y : Word64) : Statement (.reserved11 x y) := by
  simp [Statement, encode, Instr.op]

end Sys2Proof.Laws.EncodedFields
end

