-- ==== Sys2Proof/Tests/Slice0.lean ====
section
/-! SUPPORT. The model's own tests, each expected value taken from spec/95_test_vectors.md or worked out by
hand from the rule named, and one witness theorem per statement that has hypotheses. -/

namespace Sys2Proof.Tests

open Sys2Proof.Machine

/-- The outcome is a next state with the property. -/
def after (o : Host.Outcome State Fault Refusal) (p : State → Bool) : Bool :=
  match o with
  | .next t => p t
  | .fault _ => false
  | .refused _ => false

/-- The latencies of the trace P5 (`LAT_BUILD = 3`, `LAT_REDUCE = 2`). -/
def lat5 : Latencies := { build := 3, reduce := 2, illegal := 1 }

/-- An idle block with a context and these coming inputs. -/
def ctx (m : Word64) (mu : Word128) (ps : List PortIn := []) : State :=
  { State.resetWith lat5 with mod := m, mu := mu, ctxValid := true, inputs := ps }

/-- An idle block without a context and with these coming inputs. -/
def fresh (ps : List PortIn := []) : State := { State.resetWith lat5 with inputs := ps }

/-- The block `BUSY` with a request word and a count. -/
def busy (w : ReqWord) (n : Nat) (ps : List PortIn := []) : State :=
  { fresh ps with fsm := .busy, pendReq := w, cnt := n }

/-- The block in `RESP` with a request and a response word. -/
def resp (w : ReqWord) (r : RspWord) (ps : List PortIn := []) : State :=
  { fresh ps with fsm := .resp, pendReq := w, pendRsp := r }

/-- A sample with `rst = 1`. -/
def rstSample : PortIn := { PortIn.quiet with rst := true }

/-- `BUILD 10007` (E1). -/
def wBuild : ReqWord := 0x100000000000000000000000000002717#130

/-- `REDUCE 0x0, 0x1312d00` (E1). -/
def wReduce : ReqWord := 0x200000000000000000000000001312d00#130

/-! ## Decoding: words written out bit by bit from R41 and R42 -/

theorem test_decode_build :
    decode (0b01#2 ++ 0xdeadbeefdeadbeef#64 ++ 0x2717#64 : BitVec 130) =
      .build 0xdeadbeefdeadbeef#64 10007#64 := by decide

theorem test_decode_reduce :
    decode (0b10#2 ++ 0x123456789abcdef0#64 ++ 0xfedcba9876543210#64 : BitVec 130) =
      .reduce 0x123456789abcdef0#64 0xfedcba9876543210#64 := by decide

theorem test_decode_reserved00 : decode 0x7#130 = .reserved00 0#64 7#64 := by decide

theorem test_decode_reserved11 :
    decode 0x3ffffffffffffffffffffffffffffffff#130 =
      .reserved11 0xffffffffffffffff#64 0xffffffffffffffff#64 := by decide

theorem test_decode_wider_is_rejected : decodeNumber (2 ^ 130) = .error .widerThanRequestWord := by rfl

theorem test_decode_table_word :
    decodeTableWord 136 0x200000000000000000000000001312d00 = some (.reduce 0#64 20000000#64) := by decide

/-! ## WellFormed: one ill-formed line for each check -/

theorem test_wf_build_modulus : (AsmLine.build (2 ^ 64)).wellFormed = false := by decide

theorem test_wf_reduce_high : (AsmLine.reduce (2 ^ 64) 0).wellFormed = false := by decide

theorem test_wf_reduce_low : (AsmLine.reduce 0 (2 ^ 64)).wellFormed = false := by decide

theorem test_wf_req_op : (AsmLine.req 4 0 0).wellFormed = false := by decide

theorem test_wf_req_opnd0 : (AsmLine.req 3 (2 ^ 64) 0).wellFormed = false := by decide

theorem test_wf_req_opnd1 : (AsmLine.req 3 0 (2 ^ 64)).wellFormed = false := by decide

theorem test_wf_reduce128 : (AsmLine.reduce128 (2 ^ 128)).wellFormed = false := by decide

theorem test_wf_modmul_first : (AsmLine.modmul (2 ^ 64) 0).wellFormed = false := by decide

theorem test_wf_modmul_second : (AsmLine.modmul 0 (2 ^ 64)).wellFormed = false := by decide

/-- P3, row 2. -/
theorem test_assemble_modmul :
    assemble (.modmul 0x123456789abcdef0 0x123456789abcdef0) =
      some 0x2014b66dc33f6acdca5e20890f2a52100#130 := by decide

/-! ## BUILD: section 2.1 of the vectors -/

theorem test_build_three :
    after (exec (.build 0#64 3#64) fresh) (fun t =>
      t.mod == 3#64 && t.mu == 0x55555555555555555555555555555555#128 && t.ctxValid && t.pendRsp == 0#66) =
      true := by decide

theorem test_build_one_invalidates :
    after (exec (.build 0xffffffffffffffff#64 1#64) (ctx 7#64 0x24924924924924924924924924924924#128)) (fun t =>
      t.mod == 0#64 && t.mu == 0#128 && !t.ctxValid && t.pendRsp == 0x10000000000000000#66) = true := by decide

theorem test_mu_largest_modulus : muOf 0xffffffffffffffff#64 = 0x10000000000000001#128 := by decide

theorem test_long_division : muByLongDivision 0x2717#64 = 0x68c8c4acd52666129295dc2247ae5#128 := by
  decide +kernel

/-! ## REDUCE: section 2.2, E5, and 2.5 of the vectors -/

theorem test_reduce_estimate_over_64_bits :
    after (exec (.reduce 0x2718#64 0#64) (ctx 0x2717#64 0x68c8c4acd52666129295dc2247ae5#128)) (fun t =>
      t.pendRsp == 0x00000000000000ed6#66 && t.ctxValid && t.mod == 0x2717#64) = true := by decide

theorem test_reduce_all_ones :
    after (exec (.reduce 0xffffffffffffffff#64 0xffffffffffffffff#64)
      (ctx 0xffffffffffffffc5#64 0x1000000000000003b#128)) (fun t => t.pendRsp == 0x00000000000000d98#66) =
      true := by decide

theorem test_q_hat_all_ones : qHat 0xffffffffffffffffffffffffffffffff#128 0x1000000000000003b#128 =
    0x1000000000000003a#128 := by decide

theorem test_r0_all_ones :
    candidate 0xffffffffffffffffffffffffffffffff#128 0x1000000000000003b#128 0xffffffffffffffc5#64 =
      0x10000000000000d5d#128 := by decide

/-- 2.3, rows 5 and 10. -/
theorem test_corr_diff_borrows : corrDiff 0x2716#128 0x2717#64 = 0x1ffffffffffffffffffffffffffffffff#129 := by
  decide

theorem test_corr_stage_above_64_bits :
    corrStage 0x1fffffffffffffffd#128 0xffffffffffffffff#64 = 0xfffffffffffffffe#128 := by decide

/-- 2.5: the forbidden constant leaves `r0 = 2m`. -/
theorem test_wrong_mu_candidate :
    candidate 0xffffffffffffffffffffffffffffffff#128 0x55555555555555555555555555555554#128 3#64 = 6#128 := by
  decide

/-! ## Reserved commands: section 2.4 -/

theorem test_reserved00 :
    after (exec (.reserved00 0#64 0#64) (ctx 7#64 0x24924924924924924924924924924924#128)) (fun t =>
      t.pendRsp == 0x30000000000000000#66 && t.ctxValid && t.mod == 7#64) = true := by decide

theorem test_reserved11 :
    after (exec (.reserved11 1#64 2#64) fresh) (fun t =>
      t.pendRsp == 0x30000000000000000#66 && !t.ctxValid) = true := by decide

/-! ## Clock edges: the trace P5 -/

theorem test_p5_cycle_1_accepts :
    after (step (fresh [presentRequest wBuild])) (fun t => t.fsm == .busy && t.pendReq == wBuild && t.cnt == 0) =
      true := by decide

theorem test_p5_cycle_3_counts :
    after (step (busy wBuild 1 [presentRequest wReduce])) (fun t =>
      t.fsm == .busy && t.cnt == 2 && t.pendReq == wBuild && !t.ctxValid) = true := by decide

theorem test_p5_cycle_4_commits :
    after (step (busy wBuild 2 [presentRequest wReduce])) (fun t =>
      t.fsm == .resp && t.ctxValid && t.mu == 0x68c8c4acd52666129295dc2247ae5#128 &&
        (outputs false t == ⟨false, true, 0#2, 0#64, true⟩)) = true := by decide

theorem test_p5_cycle_9_taken :
    after (step (resp wReduce 0x0000000000000177e#66 [takeResponse])) (fun t =>
      t.fsm == .idle && t.taken == [0x0000000000000177e#66]) = true := by decide

/-- R97: a reset withdraws a presented response. -/
theorem test_reset_withdraws_response :
    after (step (resp wReduce 0x0000000000000177e#66 [{ takeResponse with rst := true }])) (fun t =>
      t == fresh) = true := by decide

theorem test_fetch_word_runs_next :
    after (step (State.reset.withFetchWord 136 0x100000000000000000000000000002717)) (fun t =>
      t.mod == 0x2717#64 && t.ctxValid && t.inputs == []) = true := by decide

/-! ## Witnesses: for each statement with hypotheses, states and operands that meet all of them -/

/-- The context of `BUILD 2` and of `BUILD 2^64 - 1`, the ends of the legal range (R7). -/
theorem witness_holdsContext_least : (ctx 2#64 0x80000000000000000000000000000000#128).holdsContext := by
  unfold State.holdsContext
  decide

theorem witness_holdsContext_greatest :
    (ctx 0xffffffffffffffff#64 0x10000000000000001#128).holdsContext := by
  unfold State.holdsContext
  decide

theorem witness_DecodeAndEncodeAreInverse : (Instr.build 1#64 2#64).wellFormed = true := by decide

theorem witness_OpFieldSelectsTheCommand :
    (0x7#130).extractLsb' 128 2 = 0b00#2 ∧ wBuild.extractLsb' 128 2 = 0b01#2 ∧
      wReduce.extractLsb' 128 2 = 0b10#2 ∧
      (0x3ffffffffffffffffffffffffffffffff#130).extractLsb' 128 2 = 0b11#2 := by decide

theorem witness_ReduceOperandsAreTheDividend : wReduce.extractLsb' 128 2 = 0b10#2 := by decide

theorem witness_IgnoredFieldsHaveNoEffect :
    (reqOp wBuild = reqOp 0x1deadbeefdeadbeef0000000000002717#130 ∧ reqOp wBuild = 0b01#2 ∧
      reqOpnd1 wBuild = reqOpnd1 0x1deadbeefdeadbeef0000000000002717#130 ∧
      wBuild ≠ 0x1deadbeefdeadbeef0000000000002717#130) ∧
    (reqOp 0x0#130 = reqOp 0x7#130 ∧ reqOp 0x0#130 = 0b00#2) ∧
    (reqOp 0x300000000000000000000000000000000#130 = reqOp 0x3ffffffffffffffffffffffffffffffff#130 ∧
      reqOp 0x300000000000000000000000000000000#130 = 0b11#2) := by decide

theorem witness_EveryWordHasAMeaning :
    reqOp 0x0#130 = 0b00#2 ∧ reqOp 0x300000000000000000000000000000000#130 = 0b11#2 := by decide

theorem witness_AssemblerLinesGiveTheirWords :
    (2 ^ 64 - 1 < 2 ^ 64) ∧ (3 < 4) ∧ (2 ^ 128 - 1 < 2 ^ 128) ∧ (AsmLine.build (2 ^ 64)).wellFormed = false := by
  decide

theorem witness_ModmulGivesTheProductModulo :
    2 ^ 64 - 1 < 2 ^ 64 ∧ (ctx 2#64 0x80000000000000000000000000000000#128).holdsContext :=
  ⟨by decide, witness_holdsContext_least⟩

theorem witness_BuildWritesTheContext :
    wBuild.extractLsb' 128 2 = 0b01#2 ∧ (1#64).toNat < 2 ∧ 2 ≤ (2#64).toNat := by decide

theorem witness_BuiltMuFitsItsRegister :
    (∃ t, exec (.build 0#64 2#64) fresh = .next t ∧ 2 ≤ (2#64).toNat) ∧
    (∃ t, exec (.build 0#64 0xffffffffffffffff#64) fresh = .next t ∧ 2 ≤ (0xffffffffffffffff#64).toNat) ∧
    ∃ t, exec (.build 0#64 1#64) fresh = .next t ∧ (1#64).toNat = 1 :=
  ⟨⟨_, rfl, by decide⟩, ⟨_, rfl, by decide⟩, ⟨_, rfl, by decide⟩⟩

theorem witness_PowerOfTwoModulusIsBuiltExactly :
    (2#64).toNat = 2 ^ 1 ∧ (0x8000000000000000#64).toNat = 2 ^ 63 := by decide

theorem witness_BuildIsDeterministic :
    ∃ t t', exec (.build 1#64 7#64) fresh = .next t ∧
      exec (.build 2#64 7#64) (ctx 2#64 0x80000000000000000000000000000000#128) = .next t' :=
  ⟨_, _, rfl, rfl⟩

theorem witness_RefusedBuildInvalidatesUntilRebuilt :
    (1#64).toNat < 2 ∧ ∀ w ∈ [wReduce, 0x100000000000000000000000000000001#130], isLegalBuild w = false :=
  ⟨by decide, List.forall_mem_cons.mpr ⟨by decide, List.forall_mem_cons.mpr ⟨by decide, by simp⟩⟩⟩

theorem witness_LongDivisionComputesTheBuiltMu :
    ∃ t, exec (.build 0#64 2#64) fresh = .next t ∧ 2 ≤ (2#64).toNat := ⟨_, rfl, by decide⟩

theorem witness_ForbiddenShortcutsMissTheBuiltMu :
    (∃ t, exec (.build 0#64 3#64) fresh = .next t ∧ 2 ≤ (3#64).toNat) ∧
    ∃ t, exec (.build 0#64 0x8000000000000000#64) fresh = .next t ∧
      (0x8000000000000000#64).toNat = 2 ^ 63 := ⟨⟨_, rfl, by decide⟩, ⟨_, rfl, by decide⟩⟩

theorem witness_ReduceAfterBuildUsesItsModulus : 2 ≤ (2#64).toNat := by decide

theorem witness_ReduceAnswersTheExactRemainder :
    (ctx 0xffffffffffffffff#64 0x10000000000000001#128).holdsContext := witness_holdsContext_greatest

theorem witness_ReduceWithoutContextIsReported :
    fresh.ctxValid = false ∧ ∃ t, exec (.build 0#64 1#64) fresh = .next t ∧ (1#64).toNat < 2 :=
  ⟨rfl, _, rfl, by decide⟩

/-- Both clauses on the size of the estimate, at `m = 2` and its constant. -/
theorem witness_QuotientEstimateIsAtMostOneLow :
    2 ≤ (2#64).toNat ∧ (0x80000000000000000000000000000000#128).toNat = 2 ^ 128 / (2#64).toNat ∧
    (0x1ffffffffffffffff#128).toNat < (2#64).toNat * 2 ^ 64 ∧
    (2#64).toNat < ((0x30000000000000000#128).extractLsb' 64 64).toNat := by decide

theorem witness_CandidateRemainderIsBelowTwiceTheModulus :
    2 ≤ (0xffffffffffffffff#64).toNat ∧
      (0x10000000000000001#128).toNat = 2 ^ 128 / (0xffffffffffffffff#64).toNat := by decide

theorem witness_CorrectionStageSubtractsWhenItMay :
    (0x2717#64).toNat ≤ (0x2717#128).toNat ∧ (0x2716#128).toNat < (0x2717#64).toNat := by decide

theorem witness_TwoStagesReduceBelowThreeModuli :
    (20#128).toNat < 3 * (7#64).toNat ∧ (13#128).toNat < 2 * (7#64).toNat := by decide

theorem witness_EveryIntermediateFitsItsWidth :
    2 ≤ (2#64).toNat ∧ (0x80000000000000000000000000000000#128).toNat = 2 ^ 128 / (2#64).toNat := by decide

theorem witness_TwoStagesAbsorbAMuOneTooSmall :
    2 ≤ (3#64).toNat ∧ (0x55555555555555555555555555555554#128).toNat + 1 = 2 ^ 128 / (3#64).toNat := by decide

theorem witness_ReduceIsAPureFunction :
    ∃ t t', exec (.reduce 1#64 2#64) (ctx 3#64 0x55555555555555555555555555555555#128) = .next t ∧
      exec (.reduce 1#64 2#64) (ctx 3#64 0x55555555555555555555555555555555#128 [PortIn.quiet]) = .next t' :=
  ⟨_, _, rfl, rfl⟩

/-- Each of the four statuses occurs. -/
theorem witness_ErrorsAreExactlyTheTable :
    (∃ t, exec (.build 0#64 0#64) fresh = .next t ∧ rspStatusOf t.pendRsp = 0b01#2) ∧
    (∃ t, exec (.reduce 0#64 5#64) fresh = .next t ∧ rspStatusOf t.pendRsp = 0b10#2) ∧
    (∃ t, exec (.reserved00 0#64 0#64) fresh = .next t ∧ rspStatusOf t.pendRsp = 0b11#2) ∧
    ∃ t, exec (.build 0#64 2#64) fresh = .next t ∧ rspStatusOf t.pendRsp = 0b00#2 :=
  ⟨⟨_, rfl, by decide⟩, ⟨_, rfl, by decide⟩, ⟨_, rfl, by decide⟩, ⟨_, rfl, by decide⟩⟩

theorem witness_ResultFieldIsTheRemainderOrZero :
    (ContextInv (ctx 2#64 0x80000000000000000000000000000000#128) ∧
      ∃ t, exec (.reduce 0#64 3#64) (ctx 2#64 0x80000000000000000000000000000000#128) = .next t ∧
        rspStatusOf t.pendRsp = 0b00#2) ∧
    ContextInv fresh ∧ ∃ t, exec (.reduce 0#64 3#64) fresh = .next t ∧ rspStatusOf t.pendRsp ≠ 0b00#2 :=
  ⟨⟨.inl witness_holdsContext_least, _, rfl, by decide⟩, .inr ⟨rfl, rfl, rfl⟩, _, rfl, by decide⟩

theorem witness_CommandsTouchOnlyContextAndResponse :
    ∃ t, exec (.reserved11 0#64 0#64) fresh = .next t ∧ ∀ x m, Instr.reserved11 0#64 0#64 ≠ .build x m :=
  ⟨_, rfl, fun _ _ h => by cases h⟩

theorem witness_CommandsReadOnlyTheContext :
    ∃ t t', exec (.build 0#64 7#64) fresh = .next t ∧ exec (.build 0#64 7#64) (busy wReduce 1) = .next t' :=
  ⟨_, _, rfl, rfl⟩

theorem witness_StepRunsTheAcceptedCommand :
    (busy wBuild 2).fsm = .busy ∧ (busy wBuild 2).cnt + 1 = (busy wBuild 2).pendLatency ∧
      (busy wBuild 2).sample.rst = false ∧ decode (busy wBuild 2).pendReq = .build 0#64 10007#64 := by decide

theorem witness_RequestTransfersOnlyWhenReady :
    ((fresh [presentRequest wBuild]).sample.rst = false ∧ (fresh [presentRequest wBuild]).sample.reqValid = true ∧
      reqReady false (fresh [presentRequest wBuild]) = true) ∧
    reqReady false (busy wBuild 0) = false ∧ reqReady true fresh = false := by decide

/-- One state per clause: accept, idle, commit, count, take, hold, and a whole latency. -/
theorem witness_SequencerMovesAsItsRuleSays :
    ((fresh [presentRequest wBuild]).fsm = .idle ∧ (fresh [presentRequest wBuild]).sample.reqValid = true) ∧
    (fresh.fsm = .idle ∧ fresh.sample.rst = false ∧ fresh.sample.reqValid = false) ∧
    ((busy wBuild 2).cnt + 1 = (busy wBuild 2).pendLatency ∧ (busy wBuild 1).cnt + 1 ≠ (busy wBuild 1).pendLatency) ∧
    ((resp wBuild 0#66 [takeResponse]).sample.rspReady = true ∧ (resp wBuild 0#66).sample.rspReady = false) ∧
    ∀ p ∈ (fresh [presentRequest wBuild]).inputs.take (1 + latencyOf lat5 0b01#2), p.rst = false := by decide

theorem witness_ResponseIsHeldUntilTaken :
    (resp wBuild 0#66 [PortIn.quiet, PortIn.quiet]).fsm = .resp ∧
    (∀ p ∈ (resp wBuild 0#66 [PortIn.quiet, PortIn.quiet]).inputs.take 2, p.rst = false ∧ p.rspReady = false) ∧
    (resp wBuild 0#66 [takeResponse]).sample.rspReady = true := by decide

theorem witness_ResetEdgeResetsEverything : (busy wBuild 1 [rstSample]).sample.rst = true := by decide

theorem witness_OutputsAreQuietInReset : (resp wBuild 0#66 [rstSample]).sample.rst = true := by decide

theorem witness_OutputsFollowTheState :
    (outputs false (resp wBuild 0#66)).rspValid = true ∧ (outputs false fresh).rspValid = false := by decide

theorem witness_EveryEdgeKeepsTheInvariant :
    ∃ t, Inv (fresh [presentRequest wBuild]) ∧ step (fresh [presentRequest wBuild]) = .next t :=
  ⟨_, ⟨.inr ⟨rfl, rfl, rfl⟩, by unfold SequencerInv; decide, fun h => by cases h⟩, rfl⟩

/-- A run that answers a `REDUCE` with `OK`: P1 with every latency 1. -/
theorem witness_EveryReachableAnswerIsRight :
    ∃ t, Sys2Proof.core.run 5 { State.resetWith Config.resetLatencies with
        inputs := serveOne Config.resetLatencies wBuild 0 ++ [presentRequest wReduce] } = .next t ∧
      t.ctxValid = true ∧ rspValid false t = true ∧ (outputs false t).rspStatus = 0b00#2 ∧
      decode t.pendReq = .reduce 0#64 20000000#64 := ⟨_, rfl, by decide, by decide, by decide, by decide⟩

theorem witness_OnlyBuildAndResetWriteTheContext :
    ∃ t, step (busy wBuild 2) = .next t ∧ t.mod ≠ (busy wBuild 2).mod ∧ (busy wBuild 2).ctxValid = false ∧
      t.ctxValid = true := ⟨_, rfl, by decide, by decide, by decide⟩

/-- One input on the port, `LAT_BUILD = 3` quiet edges, one stalled edge, and the take. -/
theorem witness_HandshakeDeliversTheTransaction :
    (fresh (serveOne lat5 wBuild 1)).fsm = .idle ∧
    (fresh (serveOne lat5 wBuild 1)).inputs = presentRequest wBuild ::
      ([PortIn.quiet, PortIn.quiet, PortIn.quiet] ++ [PortIn.quiet] ++ takeResponse :: []) ∧
    (presentRequest wBuild).rst = false ∧ (presentRequest wBuild).reqValid = true ∧
    (presentRequest wBuild).word = wBuild ∧
    (∀ q ∈ [PortIn.quiet, PortIn.quiet, PortIn.quiet] ++ [PortIn.quiet], q.rst = false) ∧
    [PortIn.quiet, PortIn.quiet, PortIn.quiet].length = latencyOf lat5 (reqOp wBuild) ∧
    (∀ q ∈ [PortIn.quiet], q.rspReady = false) ∧ takeResponse.rst = false ∧ takeResponse.rspReady = true := by
  decide

theorem witness_CommandStreamExecutesInOrder :
    (fresh (serveAll lat5 [(wBuild, 0), (wReduce, 2)] ++ [PortIn.quiet])).fsm = .idle ∧
    (fresh (serveAll lat5 [(wBuild, 0), (wReduce, 2)] ++ [PortIn.quiet])).inputs =
      serveAll lat5 [(wBuild, 0), (wReduce, 2)] ++ [PortIn.quiet] := ⟨rfl, rfl⟩

theorem witness_TimingDependsOnOpOnly :
    SameTiming (busy wReduce 1 [presentRequest wBuild])
      { busy 0x200000000000000000000000000000005#130 1 [presentRequest 0x100000000000000000000000000000000#130]
        with mod := 7#64, ctxValid := true } ∧
    ∃ t, Sys2Proof.core.run 2 (busy wReduce 1 [presentRequest wBuild]) = .next t :=
  ⟨⟨rfl, rfl, rfl, by decide, .cons ⟨rfl, rfl, by decide, rfl⟩ .nil⟩, _, rfl⟩

theorem witness_AcceptedCommandReachesItsResponse :
    (busy wBuild 1).fsm = .busy ∧ (busy wBuild 1).cnt < (busy wBuild 1).pendLatency ∧
    (∀ p ∈ (busy wBuild 1).inputs.take ((busy wBuild 1).pendLatency - (busy wBuild 1).cnt), p.rst = false) ∧
    0 < (busy wBuild 1).pendLatency - (busy wBuild 1).cnt := by decide

theorem witness_OneCommandIsOutstanding :
    (∃ t, step (fresh [presentRequest wBuild]) = .next t ∧
      requestTransfers (presentRequest wBuild) (fresh [presentRequest wBuild]) = true) ∧
    ∃ t, step (resp wBuild 0#66 [takeResponse]) = .next t ∧
      reqReady false (resp wBuild 0#66 [takeResponse]) = false ∧ reqReady false t = true ∧
      responseTransfers takeResponse (resp wBuild 0#66 [takeResponse]) = true :=
  ⟨⟨_, rfl, by decide⟩, _, rfl, by decide, by decide, by decide⟩

/-- A host that holds `REDUCE` over the edge that takes a response, and has it accepted at the next. -/
theorem witness_HeldRequestIsTheOneAccepted :
    let s := resp wBuild 0#66 [{ presentRequest wReduce with rspReady := true }, presentRequest wReduce]
    HostHolds 2 s ∧ s.sample.reqValid = true ∧ firstAccepted 2 s = some wReduce := by
  refine ⟨?_, by decide, by decide⟩
  intro t ht
  obtain rfl := Host.Outcome.next.inj ht
  refine ⟨fun _ _ => by decide, ?_⟩
  intro u hu
  exact ⟨fun _ h => absurd h (by decide), trivial⟩

theorem witness_HeldRequestIsTheOneAccepted_edge :
    ∃ t, requestTransfers (fresh [presentRequest wReduce]).sample (fresh [presentRequest wReduce]) = true ∧
      step (fresh [presentRequest wReduce]) = .next t := ⟨_, by decide, rfl⟩

theorem witness_BuildingFirstIsEnough :
    (buildsFirst fresh.ctxValid [wBuild, wReduce] = true ∧ [wBuild, wReduce][1]? = some wReduce ∧
      (∃ r, (responsesOf [wBuild, wReduce] fresh)[1]? = some r) ∧ reqOp wReduce = 0b10#2) ∧
    fresh.ctxValid = false ∧ (∀ v ∈ [wReduce], isLegalBuild v = false) ∧ [wReduce][0]? = some wReduce ∧
      ∃ r, (responsesOf [wReduce] fresh)[0]? = some r :=
  ⟨⟨by decide, rfl, ⟨_, rfl⟩, by decide⟩, rfl,
    List.forall_mem_cons.mpr ⟨by decide, by simp⟩, rfl, _, rfl⟩

end Sys2Proof.Tests
end

section
/-! PROOFS. One equation per edge of the handshake (R24), what a run does in each phase, and from them
the whole handshake around one command (R8). -/

namespace Sys2Proof.Machine

/-! ## A command depends on the context only -/

/-- Two states with the same `MOD`, `MU` and `CTX_VALID` (R15), the rest arbitrary. -/
def SameContext (s s' : State) : Prop := s.mod = s'.mod ∧ s.mu = s'.mu ∧ s.ctxValid = s'.ctxValid

/-- `s` at the edge that commits a command whose outcome is `t`: the context and the response word of `t`,
presented (R24, R104), all else as in `s`. -/
def State.presenting (s t : State) : State :=
  { s with mod := t.mod, mu := t.mu, ctxValid := t.ctxValid, fsm := .resp, pendRsp := t.pendRsp }

section presenting

variable (s t : State)

@[simp] theorem State.presenting_mod : (s.presenting t).mod = t.mod := rfl
@[simp] theorem State.presenting_mu : (s.presenting t).mu = t.mu := rfl
@[simp] theorem State.presenting_ctxValid : (s.presenting t).ctxValid = t.ctxValid := rfl
@[simp] theorem State.presenting_fsm : (s.presenting t).fsm = .resp := rfl
@[simp] theorem State.presenting_pendReq : (s.presenting t).pendReq = s.pendReq := rfl
@[simp] theorem State.presenting_pendRsp : (s.presenting t).pendRsp = t.pendRsp := rfl
@[simp] theorem State.presenting_cnt : (s.presenting t).cnt = s.cnt := rfl
@[simp] theorem State.presenting_lat : (s.presenting t).lat = s.lat := rfl
@[simp] theorem State.presenting_inputs : (s.presenting t).inputs = s.inputs := rfl
@[simp] theorem State.presenting_taken : (s.presenting t).taken = s.taken := rfl

end presenting

/-- Every command answers a next state in every state (R46, R81). -/
theorem exec_total (i : Instr) (s : State) : ∃ t, exec i s = .next t := by
  cases i with
  | build x m =>
    by_cases hm : m < 2#64
    · exact ⟨_, if_pos hm⟩
    · exact ⟨_, if_neg hm⟩
  | reduce aHi aLo =>
    by_cases hc : s.ctxValid = true
    · exact ⟨_, if_pos hc⟩
    · exact ⟨_, if_neg hc⟩
  | reserved00 x y => exact ⟨_, rfl⟩
  | reserved11 x y => exact ⟨_, rfl⟩

/-- Responding and then presenting the outcome in a state with the same context is responding there. -/
theorem presenting_respond {s s' : State} (hs : SameContext s s') (st : Status) (r : Word64) :
    s'.presenting (s.respond st r) = s'.respond st r := by
  obtain ⟨hmod, hmu, hctx⟩ := hs
  simp [State.presenting, State.respond, hmod, hmu, hctx]

/-- A command's context and response are the same from every state with the same context (R8, R33). -/
theorem exec_of_sameContext {i : Instr} {s s' t : State} (hs : SameContext s s') (h : exec i s = .next t) :
    exec i s' = .next (s'.presenting t) := by
  have ⟨hmod, hmu, hctx⟩ := hs
  rcases exec_cases h with ⟨x, m, rfl, hm, rfl⟩ | ⟨x, m, rfl, hm, rfl⟩ | ⟨aHi, aLo, rfl, hc, rfl⟩ |
    ⟨aHi, aLo, rfl, hc, rfl⟩ | ⟨x, y, rfl | rfl, rfl⟩
  · exact if_pos hm
  · exact if_neg hm
  · simp [exec, execReduce, ← hctx, hc, State.respondError, presenting_respond hs]
  · simp [exec, execReduce, ← hctx, hc, hmod, hmu, presenting_respond hs]
  · simp [exec, execReserved00, State.respondError, presenting_respond hs]
  · simp [exec, execReserved11, State.respondError, presenting_respond hs]

/-! ## One equation per edge without reset (R24) -/

section edges

variable {s : State} {p : PortIn} {ps : List PortIn}

/-- The next edge samples the head of the host's list and leaves its tail. -/
theorem step_of_inputs (hi : s.inputs = p :: ps) : step s = clockEdge p { s with inputs := ps } := by
  simp [step, State.sampled, State.sample_cons s p ps hi, hi]

theorem clockEdge_of_busy (hr : p.rst = false) (hf : s.fsm = .busy) : clockEdge p s = busyEdge s := by
  simp [clockEdge, hr, hf]

theorem step_of_busy (hi : s.inputs = p :: ps) (hr : p.rst = false) (hf : s.fsm = .busy) :
    step s = busyEdge { s with inputs := ps } :=
  (step_of_inputs hi).trans (clockEdge_of_busy hr hf)

/-- `IDLE`, a request transfers: the word is latched (R100). -/
theorem step_accept (hi : s.inputs = p :: ps) (hr : p.rst = false) (hf : s.fsm = .idle)
    (hv : p.reqValid = true) :
    step s = .next { s with fsm := .busy, pendReq := p.word, cnt := 0, inputs := ps } := by
  rw [step_of_inputs hi]
  simp [clockEdge, idleEdge, requestTransfers, reqReady, hr, hf, hv]

/-- `BUSY` before the last edge: count. -/
theorem step_count (hi : s.inputs = p :: ps) (hr : p.rst = false) (hf : s.fsm = .busy)
    (hc : s.cnt + 1 ≠ s.pendLatency) : step s = .next { s with cnt := s.cnt + 1, inputs := ps } := by
  have hno : commits { s with inputs := ps } = false := by simpa [commits, State.pendLatency] using hc
  rw [step_of_busy hi hr hf, busyEdge, hno]
  rfl

/-- `BUSY` at the last edge: the latched word is executed on the context (R104), and its outcome is that of
`exec` from any state `c` with this context. -/
theorem step_commit {c t : State} (hi : s.inputs = p :: ps) (hr : p.rst = false) (hf : s.fsm = .busy)
    (hc : s.cnt + 1 = s.pendLatency) (hs : SameContext c s) (hx : exec (decode s.pendReq) c = .next t) :
    step s = .next ({ s with inputs := ps }.presenting t) := by
  have hyes : commits { s with inputs := ps } = true := by simpa [commits, State.pendLatency] using hc
  rw [step_of_busy hi hr hf, busyEdge, if_pos hyes]
  exact exec_of_sameContext (s' := { s with inputs := ps }) hs hx

/-- `RESP`, the host not ready: the response is held (R103). -/
theorem step_hold (hi : s.inputs = p :: ps) (hr : p.rst = false) (hf : s.fsm = .resp)
    (hv : p.rspReady = false) : step s = .next { s with inputs := ps } := by
  rw [step_of_inputs hi]
  simp [clockEdge, respEdge, responseTransfers, hr, hf, hv]

/-- `RESP`, the host ready: the response is taken (R103). -/
theorem step_take (hi : s.inputs = p :: ps) (hr : p.rst = false) (hf : s.fsm = .resp)
    (hv : p.rspReady = true) :
    step s = .next { s with fsm := .idle, taken := s.taken ++ [s.pendRsp], inputs := ps } := by
  rw [step_of_inputs hi]
  simp [clockEdge, respEdge, responseTransfers, rspValid, hr, hf, hv]

end edges

/-! ## The phases of a command as runs -/

/-- Every latency is at least 1 (R6). -/
theorem latencyOf_pos (l : Latencies) (op : OpCode) : 0 < latencyOf l op := by
  unfold latencyOf
  split
  · exact l.build_pos
  · split
    · exact l.reduce_pos
    · exact l.illegal_pos

/-- `BUSY` for exactly the edges the latency leaves: the run counts up to the last of them and commits
there (R24, R109), whatever else the host drives. -/
theorem run_busy {qs rest : List PortIn} {s c t : State} (hf : s.fsm = .busy) (hi : s.inputs = qs ++ rest)
    (hr : ∀ q ∈ qs, q.rst = false) (hlt : s.cnt < s.pendLatency)
    (hlen : s.cnt + qs.length = s.pendLatency) (hs : SameContext c s)
    (hx : exec (decode s.pendReq) c = .next t) :
    Sys2Proof.core.run qs.length s =
      .next ({ s with cnt := s.pendLatency - 1, inputs := rest }.presenting t) := by
  induction qs generalizing s with
  | nil => rw [List.length_nil] at hlen; omega
  | cons q qs ih =>
    obtain ⟨hq, hqs⟩ := List.forall_mem_cons.mp hr
    rw [List.length_cons] at hlen
    by_cases hc : s.cnt + 1 = s.pendLatency
    · obtain rfl : qs = [] := List.length_eq_zero_iff.mp (by omega)
      rw [List.length_singleton, run_succ 0 (step_commit hi hq hf hc hs hx), run_zero,
        show s.pendLatency - 1 = s.cnt by omega]
      rfl
    · have hlt' : s.cnt + 1 < s.pendLatency := by omega
      have hlen' : s.cnt + 1 + qs.length = s.pendLatency := by omega
      rw [List.length_cons, run_succ _ (step_count hi hq hf hc)]
      exact ih (s := { s with cnt := s.cnt + 1, inputs := qs ++ rest }) hf rfl hqs hlt' hlen' hs hx

/-- `RESP` for any number of edges at which the host is not ready, and then one at which it is: the
response stands unchanged until that edge takes it (R103). -/
theorem run_resp {qs rest : List PortIn} {p : PortIn} {s : State} (hf : s.fsm = .resp)
    (hi : s.inputs = qs ++ p :: rest) (hr : ∀ q ∈ qs, q.rst = false) (hv : ∀ q ∈ qs, q.rspReady = false)
    (hpr : p.rst = false) (hpv : p.rspReady = true) :
    Sys2Proof.core.run (qs.length + 1) s =
      .next { s with fsm := .idle, taken := s.taken ++ [s.pendRsp], inputs := rest } := by
  induction qs generalizing s with
  | nil => exact run_succ 0 (step_take hi hpr hf hpv)
  | cons q qs ih =>
    obtain ⟨hq, hqs⟩ := List.forall_mem_cons.mp hr
    obtain ⟨hvq, hvqs⟩ := List.forall_mem_cons.mp hv
    rw [List.length_cons, run_succ _ (step_hold hi hq hf hvq)]
    exact ih (s := { s with inputs := qs ++ p :: rest }) hf rfl hqs hvqs

/-! ## The handshake around one command -/

/-- The state in which the handshake around `w` ends: the accepting edge, the `BUSY` phase and the `RESP`
phase, one run after the other. The outcome `t` of `exec` is that at the state before acceptance: it depends
on that state's context only, and no edge before the committing one writes the context. -/
theorem run_handshake {s t : State} {w : ReqWord} {p take : PortIn} {busy stall rest : List PortIn}
    (hx : exec (decode w) s = .next t) (hf : s.fsm = .idle)
    (hi : s.inputs = p :: (busy ++ stall ++ take :: rest))
    (hpr : p.rst = false) (hpv : p.reqValid = true) (hpw : p.word = w)
    (hr : ∀ q ∈ busy ++ stall, q.rst = false) (hlen : busy.length = latencyOf s.lat (reqOp w))
    (hstall : ∀ q ∈ stall, q.rspReady = false) (htr : take.rst = false) (htv : take.rspReady = true) :
    Sys2Proof.core.run (busy.length + stall.length + 2) s =
      .next { mod := t.mod, mu := t.mu, ctxValid := t.ctxValid, fsm := .idle, pendReq := w, pendRsp := t.pendRsp,
              cnt := latencyOf s.lat (reqOp w) - 1, lat := s.lat, inputs := rest,
              taken := s.taken ++ [t.pendRsp] } := by
  obtain ⟨hrBusy, hrStall⟩ := List.forall_mem_append.mp hr
  have hAccept := step_accept hi hpr hf hpv
  rw [hpw, List.append_assoc] at hAccept
  rw [show busy.length + stall.length + 2 = busy.length + (stall.length + 1) + 1 by omega, run_succ _ hAccept]
  refine Eq.trans (run_add _ _ (run_busy (c := s) rfl rfl hrBusy (latencyOf_pos _ _) ?_ ⟨rfl, rfl, rfl⟩ hx)) ?_
  · exact (Nat.zero_add _).trans hlen
  · exact run_resp rfl rfl hrStall hstall htr htv

/-- Settles O45, by the end state of the handshake. -/
theorem handshakeDeliversTheTransaction : Obligations.HandshakeDeliversTheTransaction := by
  intro s w p take busy stall rest hf hi hpr hpv hpw hr hlen hstall htr htv
  obtain ⟨t, hx⟩ := exec_total (decode w) s
  exact ⟨t, _, hx, run_handshake hx hf hi hpr hpv hpw hr hlen hstall htr htv,
    rfl, rfl, rfl, rfl, rfl, rfl, rfl⟩

end Sys2Proof.Machine
end

section
/-! PROOFS. The state family (spec/10_state.md): the registers and ports at reset (R28), what each edge of
the sequencer does for any host, its list of samples run out or not (R24), and who writes the context (R17). -/

namespace Sys2Proof.Machine

/-! ## Reset -/

/-- In `IDLE` the ports show `req_ready` unless reset is held, no response, and `CTX_VALID` (R25, R26). -/
theorem outputs_of_idle (rst : Bool) {s : State} (hf : s.fsm = .idle) :
    outputs rst s = { reqReady := !rst, rspValid := false, rspStatus := 0#2, rspResult := 0#64,
                      ctxValid := s.ctxValid } := by
  simp [outputs, reqReady, rspValid, hf]

/-- Settles O36, by the reset value of each register and the ports of an idle block. -/
theorem resetStateHoldsTheResetValues : Obligations.ResetStateHoldsTheResetValues := by
  refine ⟨fun l => ⟨State.resetWith_mod l, State.resetWith_mu l, State.resetWith_ctxValid l,
    State.resetWith_fsm l, State.resetWith_pendReq l, State.resetWith_pendRsp l, State.resetWith_cnt l, ?_, ?_⟩,
    Config.resetLatencies, rfl⟩
  · exact outputs_of_idle true (State.resetWith_fsm l)
  · exact outputs_of_idle false (State.resetWith_fsm l)

/-! ## `LAT(op)` by `op` (R24) -/

section latencies

variable (l : Latencies)

@[simp] theorem latencyOf_opBuild : latencyOf l opBuild = l.build := if_pos rfl

@[simp] theorem latencyOf_opReduce : latencyOf l opReduce = l.reduce :=
  (if_neg (by decide)).trans (if_pos rfl)

@[simp] theorem latencyOf_opReserved00 : latencyOf l opReserved00 = l.illegal :=
  (if_neg (by decide)).trans (if_neg (by decide))

@[simp] theorem latencyOf_opReserved11 : latencyOf l opReserved11 = l.illegal :=
  (if_neg (by decide)).trans (if_neg (by decide))

end latencies

/-- The latency of a word on the ports is that of the port `req_op` (R25, R41). -/
@[simp] theorem reqOp_word (p : PortIn) : reqOp p.word = p.op := reqOp_mkReq p.op p.opnd0 p.opnd1

/-! ## The edges of a host given by its sample

The equations `step_accept`, `step_count`, `step_hold` and `step_take` want the host's list to begin with the
sample. Writing the sample out in front of the list's tail gives the same edge, so they hold of a host whose
list has run out as well. -/

/-- `s` with the host's next sample written out at the head of its list (log entry 2). -/
def State.padded (s : State) : State := { s with inputs := s.sample :: s.inputs.tail }

theorem step_padded (s : State) : step s.padded = step s := rfl

section sampleEdges

variable {s : State}

theorem step_accept_of_sample (hr : s.sample.rst = false) (hf : s.fsm = .idle)
    (hv : s.sample.reqValid = true) :
    step s = .next { s with fsm := .busy, pendReq := s.sample.word, cnt := 0, inputs := s.inputs.tail } :=
  (step_padded s).symm.trans (step_accept rfl hr hf hv)

/-- `IDLE` without a request: only the host moves on. -/
theorem step_wait_of_sample (hr : s.sample.rst = false) (hf : s.fsm = .idle)
    (hv : s.sample.reqValid = false) : step s = .next { s with inputs := s.inputs.tail } := by
  simp [step, clockEdge, idleEdge, requestTransfers, State.sampled, hr, hf, hv]

theorem step_count_of_sample (hr : s.sample.rst = false) (hf : s.fsm = .busy)
    (hc : s.cnt + 1 ≠ s.pendLatency) :
    step s = .next { s with cnt := s.cnt + 1, inputs := s.inputs.tail } :=
  (step_padded s).symm.trans (step_count rfl hr hf hc)

/-- `BUSY` at the last edge is the atomic command (R8, R24), and it answers a next state. -/
theorem step_commit_of_sample (hr : s.sample.rst = false) (hf : s.fsm = .busy)
    (hc : s.cnt + 1 = s.pendLatency) :
    ∃ t, exec (decode s.pendReq) s.sampled = .next t ∧ step s = .next t ∧ t.fsm = .resp ∧
      t.pendReq = s.pendReq := by
  have hyes : commits s.sampled = true := by simpa [commits, State.pendLatency] using hc
  have hstep : step s = exec (decode s.pendReq) s.sampled :=
    (clockEdge_of_busy (s := s.sampled) hr hf).trans (if_pos hyes)
  obtain ⟨t, hx⟩ := exec_total (decode s.pendReq) s.sampled
  obtain ⟨hresp, hpend, -⟩ := exec_presents hx
  exact ⟨t, hx, hstep.trans hx, hresp, hpend⟩

theorem step_hold_of_sample (hr : s.sample.rst = false) (hf : s.fsm = .resp)
    (hv : s.sample.rspReady = false) : step s = .next { s with inputs := s.inputs.tail } :=
  (step_padded s).symm.trans (step_hold rfl hr hf hv)

theorem step_take_of_sample (hr : s.sample.rst = false) (hf : s.fsm = .resp)
    (hv : s.sample.rspReady = true) :
    step s = .next { s with fsm := .idle, inputs := s.inputs.tail, taken := s.taken ++ [s.pendRsp] } :=
  (step_padded s).symm.trans (step_take rfl hr hf hv)

/-! ## The response after exactly `LAT(op)` edges -/

/-- No reset in the host's next `n + 1` samples is none in the next one and none in the `n` after it; a
host with no sample left drives `rst = 0`. -/
theorem noReset_take_succ {n : Nat} (h : ∀ p ∈ s.inputs.take (n + 1), p.rst = false) :
    s.sample.rst = false ∧ ∀ p ∈ s.inputs.tail.take n, p.rst = false := by
  cases hi : s.inputs with
  | nil => simp [State.sample_nil s hi, PortIn.quiet]
  | cons p ps =>
    rw [hi, List.take_succ_cons, List.forall_mem_cons] at h
    rw [State.sample_cons s p ps hi]
    exact h

/-- `BUSY` with `n + 1` edges left of the latency presents its response after exactly these (R24, R109),
whatever else the host drives. -/
theorem run_busy_presents {n : Nat} (hf : s.fsm = .busy) (hn : s.cnt + (n + 1) = s.pendLatency)
    (hr : ∀ p ∈ s.inputs.take (n + 1), p.rst = false) :
    ∃ t, Sys2Proof.core.run (n + 1) s = .next t ∧ t.fsm = .resp ∧ t.pendReq = s.pendReq := by
  induction n generalizing s with
  | zero =>
    obtain ⟨hrst, -⟩ := noReset_take_succ hr
    obtain ⟨t, -, hstep, hresp, hpend⟩ := step_commit_of_sample hrst hf hn
    exact ⟨t, run_succ 0 hstep, hresp, hpend⟩
  | succ n ih =>
    obtain ⟨hrst, hrTail⟩ := noReset_take_succ hr
    rw [run_succ (n + 1) (step_count_of_sample hrst hf (by omega))]
    have hn' : s.cnt + 1 + (n + 1) = s.pendLatency := by omega
    exact ih (s := { s with cnt := s.cnt + 1, inputs := s.inputs.tail }) hf hn' hrTail

/-- An accepted request has its response presented `LAT(op)` edges after the accepting one (R24). -/
theorem run_accept_presents (hf : s.fsm = .idle) (hv : s.sample.reqValid = true)
    (hr : ∀ p ∈ s.inputs.take (1 + latencyOf s.lat s.sample.op), p.rst = false) :
    ∃ t, Sys2Proof.core.run (1 + latencyOf s.lat s.sample.op) s = .next t ∧ t.fsm = .resp ∧
      t.pendReq = s.sample.word := by
  obtain ⟨n, hn⟩ := Nat.exists_eq_add_one.mpr (latencyOf_pos s.lat s.sample.op)
  rw [hn, Nat.add_comm] at hr ⊢
  obtain ⟨hrst, hrTail⟩ := noReset_take_succ hr
  rw [run_succ (n + 1) (step_accept_of_sample hrst hf hv)]
  have hlat : 0 + (n + 1) = latencyOf s.lat (reqOp s.sample.word) := by rw [reqOp_word, hn, Nat.zero_add]
  exact run_busy_presents
    (s := { s with fsm := .busy, pendReq := s.sample.word, cnt := 0, inputs := s.inputs.tail }) rfl hlat hrTail

end sampleEdges

/-- Settles O33, by the equation of each edge and a run over the latency. -/
theorem sequencerMovesAsItsRuleSays : Obligations.SequencerMovesAsItsRuleSays := by
  refine ⟨fun s hr hf => ⟨step_accept_of_sample hr hf, step_wait_of_sample hr hf⟩,
    fun s hr hf => ⟨fun hc => ?_, step_count_of_sample hr hf⟩,
    fun s hr hf => ⟨step_take_of_sample hr hf, step_hold_of_sample hr hf⟩,
    fun l => ⟨latencyOf_opBuild l, latencyOf_opReduce l, latencyOf_opReserved00 l, latencyOf_opReserved11 l⟩,
    fun s => run_accept_presents⟩
  obtain ⟨t, hx, hstep, hresp, -⟩ := step_commit_of_sample hr hf hc
  exact ⟨t, hx, hstep, hresp⟩

/-! ## Who writes the context (R17) -/

section contextWriters

variable {s t : State}

/-- No command but `BUILD` writes the context. -/
theorem exec_build_or_sameContext {i : Instr} (h : exec i s = .next t) :
    (∃ x m, i = .build x m) ∨ SameContext s t := by
  rcases exec_cases h with ⟨x, m, hi, -, -⟩ | ⟨x, m, hi, -, -⟩ | ⟨_, _, -, -, rfl⟩ | ⟨_, _, -, -, rfl⟩ |
    ⟨_, _, -, rfl⟩
  · exact .inl ⟨x, m, hi⟩
  · exact .inl ⟨x, m, hi⟩
  all_goals exact .inr ⟨rfl, rfl, rfl⟩

/-- Only a `BUILD` of a legal modulus makes the context valid, and it holds that modulus (R56). -/
theorem exec_raises_ctxValid {i : Instr} (h : exec i s = .next t) (hs : s.ctxValid = false)
    (ht : t.ctxValid = true) : ∃ x m, i = .build x m ∧ 2 ≤ m.toNat ∧ t.mod = m := by
  rcases exec_build_or_sameContext h with ⟨x, m, rfl⟩ | ⟨-, -, hctx⟩
  · rcases exec_cases h with ⟨_, _, -, -, rfl⟩ | ⟨_, _, hi, hm, rfl⟩ | ⟨_, _, hi, -⟩ | ⟨_, _, hi, -⟩ |
      ⟨_, _, hi | hi, -⟩
    · exact absurd ht (by simp)
    · cases hi
      exact ⟨x, m, rfl, Nat.le_of_not_lt hm, rfl⟩
    all_goals cases hi
  · exact absurd (hs.symm.trans (hctx.trans ht)) Bool.false_ne_true

/-- An edge resets the context, or runs the latched command, or leaves the context as it was. -/
theorem step_context_cases (h : step s = .next t) :
    (s.sample.rst = true ∧ t.ctxValid = false) ∨
    (s.fsm = .busy ∧ exec (decode s.pendReq) s.sampled = .next t) ∨ SameContext s t := by
  rcases step_cases h with ⟨hr, rfl⟩ | ⟨-, -, -, rfl⟩ | ⟨-, -, -, rfl⟩ | ⟨-, hf, -, hx⟩ | ⟨-, -, -, rfl⟩ |
    ⟨-, -, -, rfl⟩ | ⟨-, -, -, rfl⟩
  · exact .inl ⟨hr, rfl⟩
  case inr.inr.inr.inl => exact .inr (.inl ⟨hf, hx⟩)
  all_goals exact .inr (.inr ⟨rfl, rfl, rfl⟩)

/-- A context write is reset, or a `BUILD` at the edge where its response is first presented (R17). -/
theorem step_writes_context (h : step s = .next t) (hw : ¬ SameContext s t) :
    s.sample.rst = true ∨ (s.fsm = .busy ∧ t.fsm = .resp ∧ ∃ x m, decode s.pendReq = .build x m) := by
  rcases step_context_cases h with ⟨hr, -⟩ | ⟨hf, hx⟩ | hs
  · exact .inl hr
  · obtain ⟨hresp, -⟩ := exec_presents hx
    exact .inr ⟨hf, hresp, (exec_build_or_sameContext hx).resolve_right hw⟩
  · exact absurd hs hw

/-- `CTX_VALID` rises only by a `BUILD` of a legal modulus, which is then `MOD` (R17, R56). -/
theorem step_raises_ctxValid (h : step s = .next t) (hs : s.ctxValid = false) (ht : t.ctxValid = true) :
    ∃ x m, decode s.pendReq = .build x m ∧ 2 ≤ m.toNat ∧ t.mod = m := by
  rcases step_context_cases h with ⟨-, hc⟩ | ⟨-, hx⟩ | ⟨-, -, hctx⟩
  · exact absurd (hc.symm.trans ht) Bool.false_ne_true
  · exact exec_raises_ctxValid hx hs ht
  · exact absurd (hs.symm.trans (hctx.trans ht)) Bool.false_ne_true

end contextWriters

/-- Settles O43, by what an edge and a command can do to the context. -/
theorem onlyBuildAndResetWriteTheContext : Obligations.OnlyBuildAndResetWriteTheContext := by
  intro s t h
  refine ⟨fun hw => step_writes_context h ?_, fun _ => rfl, step_raises_ctxValid h⟩
  rintro ⟨hmod, hmu, hctx⟩
  simp [hmod, hmu, hctx] at hw

end Sys2Proof.Machine
end

section
/-! PROOFS. The encoding family (spec/30_encoding.md): the operands of `REDUCE` (R44), the fields no meaning
receives (R45), the reserved words (R46), and the result field (R52), which rests on the exactness of the
Barrett datapath (R65 to R77). -/

namespace Sys2Proof.Machine

/-! ## The operands of `REDUCE` (R44, R66) -/

/-- The two operand fields joined are the request word's lower 128 bits (R30, R41, R44). -/
theorem dividend_reqOpnds (w : ReqWord) : dividend (reqOpnd0 w) (reqOpnd1 w) = w.extractLsb' 0 128 :=
  BitVec.extractLsb'_append_extractLsb'_eq_extractLsb' rfl

/-- Settles O4, by the decoder's `REDUCE` case and the value of the two halves joined. -/
theorem reduceOperandsAreTheDividend : Obligations.ReduceOperandsAreTheDividend := by
  intro w hop
  exact ⟨reqOpnd0 w, reqOpnd1 w, decode_of_reduce w hop, rfl, rfl, dividend_reqOpnds w,
    dividend_toNat _ _, (dividend _ _).isLt⟩

/-! ## The fields no meaning receives (R45, R46) -/

/-- `opnd0` of `BUILD` reaches no meaning (R45, R47). -/
theorem exec_build (ignored m : Word64) (s : State) : exec (.build ignored m) s = execBuild m s := rfl

/-- Neither operand of a reserved command reaches a meaning (R45, R46). -/
theorem exec_reserved00 (x y : Word64) (s : State) :
    exec (.reserved00 x y) s = .next (s.respondError .illegalOp) := rfl

@[inherit_doc exec_reserved00]
theorem exec_reserved11 (x y : Word64) (s : State) :
    exec (.reserved11 x y) s = .next (s.respondError .illegalOp) := rfl

/-- A word with a reserved `op` answers `ILLEGAL_OP`, whatever else it holds (R45, R46). -/
theorem exec_decode_of_reserved {w : ReqWord} (h : reqOp w = opReserved00 ∨ reqOp w = opReserved11)
    (s : State) : exec (decode w) s = .next (s.respondError .illegalOp) := by
  rcases h with h | h
  · rw [decode_of_reserved00 w h, exec_reserved00]
  · rw [decode_of_reserved11 w h, exec_reserved11]

/-- Settles O5, by what the decoder's cases hand to the meanings; `requestTransfers` reads no operand port. -/
theorem ignoredFieldsHaveNoEffect : Obligations.IgnoredFieldsHaveNoEffect := by
  refine ⟨fun w w' s hop h => ?_, fun _ _ _ _ => rfl⟩
  rcases h with ⟨hBuild, hm⟩ | hReserved
  · rw [decode_of_build w hBuild, decode_of_build w' (hop ▸ hBuild), exec_build, exec_build, hm]
  · rw [exec_decode_of_reserved hReserved, exec_decode_of_reserved (hop ▸ hReserved)]

/-- `{ILLEGAL_OP, 0}` written out (R46, R50, R51), and all else as it was. -/
theorem respondError_illegalOp (s : State) :
    s.respondError .illegalOp = { s with fsm := .resp, pendRsp := 0x30000000000000000#66 } := rfl

/-- Settles O6, by the totality of `exec` and the response of a reserved word. -/
theorem everyWordHasAMeaning : Obligations.EveryWordHasAMeaning := by
  intro w s
  obtain ⟨t, hx⟩ := exec_total (decode w) s
  obtain ⟨hresp, -⟩ := exec_presents hx
  refine ⟨⟨t, hx, hresp⟩, fun hReserved => ?_⟩
  rw [exec_decode_of_reserved hReserved, respondError_illegalOp]

/-! ## The correction stage subtracts exactly when `m <= r` (R73) -/

section correction

variable {r : Word128} {m : Word64}

/-- No borrow: the difference is exact and its bit 128 is 0. -/
theorem corrDiff_toNat_of_le (h : m.toNat ≤ r.toNat) : (corrDiff r m).toNat = r.toNat - m.toNat := by
  have hr : (zext 129 r).toNat = r.toNat := zext_toNat r (by decide)
  have hm : (zext 129 m).toNat = m.toNat := zext_toNat m (by decide)
  rw [corrDiff, BitVec.toNat_sub_of_le (BitVec.le_def.mpr (by omega)), hr, hm]

/-- A borrow: the difference wraps in its 129 bits and its bit 128 is 1. -/
theorem corrDiff_toNat_of_lt (h : r.toNat < m.toNat) :
    (corrDiff r m).toNat = 2 ^ 129 - (m.toNat - r.toNat) := by
  have hr : (zext 129 r).toNat = r.toNat := zext_toNat r (by decide)
  have hm : (zext 129 m).toNat = m.toNat := zext_toNat m (by decide)
  have hm64 := m.isLt
  rw [corrDiff, BitVec.toNat_sub, hr, hm]
  omega

theorem corrGe_of_le (h : m.toNat ≤ r.toNat) : corrGe r m = 1#1 := by
  have hbit : (corrDiff r m).extractLsb' 128 1 = 0#1 := by
    apply BitVec.eq_of_toNat_eq
    have hr := r.isLt
    rw [BitVec.extractLsb'_toNat, Nat.shiftRight_eq_div_pow, corrDiff_toNat_of_le h,
      Nat.div_eq_of_lt (by omega)]
    rfl
  rw [corrGe, hbit]
  rfl

theorem corrGe_of_lt (h : r.toNat < m.toNat) : corrGe r m = 0#1 := by
  have hbit : (corrDiff r m).extractLsb' 128 1 = 1#1 := by
    apply BitVec.eq_of_toNat_eq
    have hm := m.isLt
    rw [BitVec.extractLsb'_toNat, Nat.shiftRight_eq_div_pow, corrDiff_toNat_of_lt h,
      show (2 ^ 129 - (m.toNat - r.toNat)) / 2 ^ 128 = 1 by omega]
    rfl
  rw [corrGe, hbit]
  rfl

theorem corrStage_toNat_of_le (h : m.toNat ≤ r.toNat) : (corrStage r m).toNat = r.toNat - m.toNat := by
  have hr := r.isLt
  have hkeep : corrStage r m = (corrDiff r m).setWidth 128 := by
    rw [corrStage, corrMask, corrGe_of_le h, replicateBit_one]
    simp only [BitVec.and_allOnes, BitVec.not_allOnes, BitVec.and_zero, BitVec.or_zero]
  rw [hkeep, BitVec.toNat_setWidth, corrDiff_toNat_of_le h, Nat.mod_eq_of_lt (by omega)]

theorem corrStage_of_lt (h : r.toNat < m.toNat) : corrStage r m = r := by
  rw [corrStage, corrMask, corrGe_of_lt h, replicateBit_zero]
  simp only [BitVec.and_zero, BitVec.not_zero, BitVec.and_allOnes, BitVec.zero_or]

/-- Two stages reduce every value below `3m` (R72). -/
theorem correct_toNat (h : r.toNat < 3 * m.toNat) : (correct r m).toNat = r.toNat % m.toNat := by
  rw [correct]
  by_cases h1 : m.toNat ≤ r.toNat
  · have hs := corrStage_toNat_of_le h1
    rw [Nat.mod_eq_sub_mod h1, ← hs]
    by_cases h2 : m.toNat ≤ (corrStage r m).toNat
    · rw [corrStage_toNat_of_le h2, Nat.mod_eq_sub_mod h2, Nat.mod_eq_of_lt (by omega)]
    · rw [corrStage_of_lt (Nat.lt_of_not_le h2), Nat.mod_eq_of_lt (Nat.lt_of_not_le h2)]
  · have hlt := Nat.lt_of_not_le h1
    rw [corrStage_of_lt hlt, corrStage_of_lt hlt, Nat.mod_eq_of_lt hlt]

end correction

/-! ## The estimate, the candidate and the remainder (R68 to R72)

The constant `mu` may be `e` below `floor(2^128 / m)`: `e = 0` is a valid context (R16), and `e = 1` is
the constant one too small that the second correction stage is for (R70, R72). -/

section barrett

variable {a mu : Word128} {m : Word64} {e : Nat}

/-- The estimate is never too large, so the candidate does not borrow (R68, R71). -/
theorem qHat_mul_le (hmu : mu.toNat + e = 2 ^ 128 / m.toNat) : (qHat a mu).toNat * m.toNat ≤ a.toNat := by
  rw [qHat_toNat]
  have hfloor : mu.toNat * m.toNat ≤ 2 ^ 128 := calc
    mu.toNat * m.toNat ≤ 2 ^ 128 / m.toNat * m.toNat := Nat.mul_le_mul_right _ (by omega)
    _ ≤ 2 ^ 128 := Nat.div_mul_le_self _ _
  refine Nat.le_of_mul_le_mul_right (c := 2 ^ 128) ?_ (by decide)
  calc a.toNat * mu.toNat / 2 ^ 128 * m.toNat * 2 ^ 128
      = a.toNat * mu.toNat / 2 ^ 128 * 2 ^ 128 * m.toNat := Nat.mul_right_comm _ _ _
    _ ≤ a.toNat * mu.toNat * m.toNat := Nat.mul_le_mul_right _ (Nat.div_mul_le_self _ _)
    _ = a.toNat * (mu.toNat * m.toNat) := Nat.mul_assoc _ _ _
    _ ≤ a.toNat * 2 ^ 128 := Nat.mul_le_mul_left _ hfloor

/-- The estimate is at most `1 + e` below the quotient (R69, R70). -/
theorem lt_qHat_add_mul (hm : 0 < m.toNat) (hmu : mu.toNat + e = 2 ^ 128 / m.toNat) :
    a.toNat < ((qHat a mu).toNat + (2 + e)) * m.toNat := by
  rw [qHat_toNat]
  have hceil : 2 ^ 128 ≤ (mu.toNat + e + 1) * m.toNat := by
    rw [hmu]
    exact (Nat.lt_mul_of_div_lt (Nat.lt_succ_self _) hm).le
  have hq : a.toNat * mu.toNat < (a.toNat * mu.toNat / 2 ^ 128 + 1) * 2 ^ 128 :=
    Nat.lt_mul_of_div_lt (Nat.lt_succ_self _) (by decide)
  have ha : a.toNat * (e + 1) ≤ 2 ^ 128 * (e + 1) := Nat.mul_le_mul_right _ a.isLt.le
  refine Nat.lt_of_mul_lt_mul_right (a := 2 ^ 128) ?_
  calc a.toNat * 2 ^ 128
      ≤ a.toNat * ((mu.toNat + e + 1) * m.toNat) := Nat.mul_le_mul_left _ hceil
    _ = (a.toNat * mu.toNat + a.toNat * (e + 1)) * m.toNat := by ring
    _ < ((a.toNat * mu.toNat / 2 ^ 128 + 1) * 2 ^ 128 + 2 ^ 128 * (e + 1)) * m.toNat :=
        Nat.mul_lt_mul_of_pos_right (by omega) hm
    _ = (a.toNat * mu.toNat / 2 ^ 128 + (2 + e)) * m.toNat * 2 ^ 128 := by ring

/-- The candidate is the exact difference (R71). -/
theorem candidate_toNat (hmu : mu.toNat + e = 2 ^ 128 / m.toNat) :
    (candidate a mu m).toNat = a.toNat - (qHat a mu).toNat * m.toNat := by
  have hle : (qHat a mu).toNat * m.toNat ≤ a.toNat := qHat_mul_le hmu
  have hT : ((estimateProduct (qHat a mu) m).setWidth 128).toNat = (qHat a mu).toNat * m.toNat := by
    rw [BitVec.toNat_setWidth, estimateProduct_toNat, Nat.mod_eq_of_lt (hle.trans_lt a.isLt)]
  rw [candidate, BitVec.toNat_sub_of_le (BitVec.le_def.mpr (hT.trans_le hle)), hT]

/-- The candidate is below `2m`, or below `3m` with a constant one too small (R71, R72). -/
theorem candidate_lt (hm : 0 < m.toNat) (hmu : mu.toNat + e = 2 ^ 128 / m.toNat) :
    (candidate a mu m).toNat < (2 + e) * m.toNat := by
  have hlt : a.toNat < ((qHat a mu).toNat + (2 + e)) * m.toNat := lt_qHat_add_mul hm hmu
  rw [Nat.add_mul] at hlt
  rw [candidate_toNat hmu]
  exact Nat.sub_lt_left_of_lt_add (qHat_mul_le hmu) hlt

/-- Barrett reduction is exact (R65, R77), also with a constant one too small (R72). -/
theorem remainder_toNat (hm : 0 < m.toNat) (he : e ≤ 1) (hmu : mu.toNat + e = 2 ^ 128 / m.toNat) :
    (remainder a m mu).toNat = a.toNat % m.toNat := by
  have hlt : (candidate a mu m).toNat < 3 * m.toNat :=
    (candidate_lt hm hmu).trans_le (Nat.mul_le_mul_right _ (by omega))
  have hmod : (correct (candidate a mu m) m).toNat = a.toNat % m.toNat := by
    rw [correct_toNat hlt, candidate_toNat hmu, Nat.mul_comm,
      Nat.sub_mul_mod ((Nat.mul_comm _ _).trans_le (qHat_mul_le hmu))]
  have hfits : a.toNat % m.toNat < 2 ^ 64 := (Nat.mod_lt _ hm).trans m.isLt
  rw [remainder, BitVec.toNat_setWidth, hmod, Nat.mod_eq_of_lt hfits]

end barrett

/-! ## The result field (R52) -/

/-- A valid context gives the remainder of the dividend of R66 (R77). -/
theorem remainder_of_holdsContext {s : State} (h : s.holdsContext) (aHi aLo : Word64) :
    (remainder (dividend aHi aLo) s.mod s.mu).toNat =
      (aHi.toNat * 2 ^ 64 + aLo.toNat) % s.mod.toNat := by
  obtain ⟨-, hm, hmu⟩ := h
  rw [remainder_toNat (e := 0) (by omega) (by decide) hmu, dividend_toNat]

/-- A context marked valid is one (R16). -/
theorem holdsContext_of_contextInv {s : State} (h : ContextInv s) (hc : s.ctxValid = true) :
    s.holdsContext := by
  rcases h with hValid | ⟨hInvalid, -, -⟩
  · exact hValid
  · exact absurd (hc.symm.trans hInvalid) (by decide)

/-- A response is an error with result 0, or `OK`: of a `BUILD` with result 0, of a `REDUCE` in a context
marked valid with the datapath's remainder (R52, R82). -/
theorem exec_response_cases {i : Instr} {s t : State} (h : exec i s = .next t) :
    (∃ st, st ≠ Status.ok ∧ t.pendRsp = mkRsp st 0#64) ∨
    (∃ x m, i = .build x m ∧ t.pendRsp = mkRsp .ok 0#64) ∨
    ∃ aHi aLo, i = .reduce aHi aLo ∧ s.ctxValid = true ∧
      t.pendRsp = mkRsp .ok (remainder (dividend aHi aLo) s.mod s.mu) := by
  rcases exec_cases h with ⟨_, _, -, -, rfl⟩ | ⟨x, m, hi, -, rfl⟩ | ⟨_, _, -, -, rfl⟩ |
    ⟨aHi, aLo, hi, hc, rfl⟩ | ⟨_, _, -, rfl⟩
  · exact .inl ⟨.invalidModulus, by decide, rfl⟩
  · exact .inr (.inl ⟨x, m, hi, rfl⟩)
  · exact .inl ⟨.noContext, by decide, rfl⟩
  · exact .inr (.inr ⟨aHi, aLo, hi, hc, rfl⟩)
  · exact .inl ⟨.illegalOp, by decide, rfl⟩

/-- `0b00` is the code of `OK` only (R51). -/
theorem code_eq_ok_iff (st : Status) : st.code = 0b00#2 ↔ st = .ok := by
  cases st <;> decide

/-- Settles O28, by the three forms of a response and the exactness of the datapath. -/
theorem resultFieldIsTheRemainderOrZero : Obligations.ResultFieldIsTheRemainderOrZero := by
  intro i s t hInv hx
  rcases exec_response_cases hx with ⟨st, hst, hrsp⟩ | ⟨x, m, rfl, hrsp⟩ | ⟨aHi, aLo, rfl, hc, hrsp⟩ <;>
    rw [hrsp, rspStatusOf_mkRsp, rspResultOf_mkRsp]
  · exact ⟨fun _ _ _ hok => absurd ((code_eq_ok_iff st).mp hok) hst, fun _ _ _ => rfl, fun _ => rfl⟩
  · exact ⟨nofun, fun _ _ _ => rfl, fun _ => rfl⟩
  · refine ⟨fun _ _ hi _ => ?_, nofun, fun hne => absurd rfl hne⟩
    cases hi
    exact remainder_of_holdsContext (holdsContext_of_contextInv hInv hc) aHi aLo

end Sys2Proof.Machine
end

section
/-! PROOFS. The context builder (spec/40_context_builder.md): the two outcomes of `BUILD` and the value of
`MU` (R56, R57, R61), and that without a legal `BUILD` a cleared context stays cleared (R61, R80). -/

namespace Sys2Proof.Machine

/-! ## The two outcomes of `BUILD` (R56, R61) -/

section build

variable {m : Word64}

/-- An illegal modulus is refused and clears the context (R61). -/
theorem exec_build_of_lt (hm : m.toNat < 2) (ignored : Word64) (s : State) :
    exec (.build ignored m) s = .next (s.clearContext.respondError .invalidModulus) :=
  if_pos (BitVec.lt_def.mpr hm)

/-- A legal modulus is written with its constant, and the context is valid (R56). -/
theorem exec_build_of_le (hm : 2 ≤ m.toNat) (ignored : Word64) (s : State) :
    exec (.build ignored m) s = .next ((s.writeContext m (muOf m) true).respond .ok 0#64) :=
  if_neg fun hlt => Nat.not_lt_of_le hm (BitVec.lt_def.mp hlt)

/-- For a legal modulus the constant fits its 128 bits, so it is the exact quotient (R57, R58). -/
theorem muOf_toNat (hm : 2 ≤ m.toNat) : (muOf m).toNat = 2 ^ 128 / m.toNat := by
  have hfits : 2 ^ 128 / m.toNat < 2 ^ 128 := Nat.div_lt_self (by decide) hm
  rw [muOf, BitVec.toNat_ofNat, Nat.mod_eq_of_lt hfits]

end build

/-- Settles O10, by the decoder's `BUILD` case and the two outcomes of `BUILD`. -/
theorem buildWritesTheContext : Obligations.BuildWritesTheContext :=
  ⟨fun w hop => decode_of_build w hop, fun ignored _ s =>
    ⟨fun hm => exec_build_of_lt hm ignored s,
     fun hm => ⟨_, muOf_toNat hm, exec_build_of_le hm ignored s⟩⟩⟩

/-- Settles O12: `2^k` is a legal modulus, and the quotient of the two powers is exact. -/
theorem powerOfTwoModulusIsBuiltExactly : Obligations.PowerOfTwoModulusIsBuiltExactly := by
  intro k ignored m s hk hk63 hmk
  have hm : 2 ≤ m.toNat := calc
    2 = 2 ^ 1 := rfl
    _ ≤ 2 ^ k := Nat.pow_le_pow_right (by decide) hk
    _ = m.toNat := hmk.symm
  refine ⟨_, exec_build_of_le hm ignored s, rfl, rfl, ?_⟩
  calc (muOf m).toNat = 2 ^ 128 / 2 ^ k := by rw [muOf_toNat hm, hmk]
    _ = 2 ^ (128 - k) := Nat.pow_div (by omega) (by decide)

/-- Settles O13: in either outcome what `BUILD` writes is a function of the modulus. -/
theorem buildIsDeterministic : Obligations.BuildIsDeterministic := by
  intro x y m s s' t t' h h'
  rcases Nat.lt_or_ge m.toNat 2 with hm | hm
  · rw [exec_build_of_lt hm] at h h'
    cases h
    cases h'
    exact ⟨rfl, rfl, rfl, rfl⟩
  · rw [exec_build_of_le hm] at h h'
    cases h
    cases h'
    exact ⟨rfl, rfl, rfl, rfl⟩

/-! ## No context until a legal `BUILD` (R61, R80) -/

/-- Without a context `REDUCE` answers `NO_CONTEXT` and writes nothing else (R80). -/
theorem exec_reduce_of_invalid {s : State} (hs : s.ctxValid = false) (aHi aLo : Word64) :
    exec (.reduce aHi aLo) s = .next (s.respondError .noContext) :=
  if_neg (Bool.eq_false_iff.mp hs)

/-- `{NO_CONTEXT, 0}` written out (R50, R51, R80), and all else as it was. -/
theorem respondError_noContext (s : State) :
    s.respondError .noContext = { s with fsm := .resp, pendRsp := 0x20000000000000000#66 } := rfl

/-- Among the words only those of `BUILD` decode to one, and its modulus is `opnd1` (R42, R43). -/
theorem eq_opBuild_of_decode_build {w : ReqWord} {x m : Word64} (h : decode w = .build x m) :
    reqOp w = opBuild ∧ reqOpnd1 w = m := by
  rcases op_cases (reqOp w) with hop | hop | hop | hop
  · cases (decode_of_reserved00 w hop).symm.trans h
  · cases (decode_of_build w hop).symm.trans h
    exact ⟨hop, rfl⟩
  · cases (decode_of_reduce w hop).symm.trans h
  · cases (decode_of_reserved11 w hop).symm.trans h

/-- A word that decodes to a `BUILD` of a legal modulus is a legal `BUILD` (R7). -/
theorem isLegalBuild_of_decode {w : ReqWord} {x m : Word64} (h : decode w = .build x m)
    (hm : 2 ≤ m.toNat) : isLegalBuild w = true := by
  obtain ⟨hop, hopnd⟩ := eq_opBuild_of_decode_build h
  simp [isLegalBuild, hop, hopnd, hm]

/-- A word that is no legal `BUILD` leaves an invalid context invalid (R17, R61). -/
theorem exec_keeps_invalid {w : ReqWord} {s t : State} (hw : isLegalBuild w = false)
    (hs : s.ctxValid = false) (h : exec (decode w) s = .next t) : t.ctxValid = false := by
  by_contra ht
  obtain ⟨x, m, hdec, hm, -⟩ := exec_raises_ctxValid h hs (Bool.eq_true_of_not_eq_false ht)
  exact absurd ((isLegalBuild_of_decode hdec hm).symm.trans hw) (by decide)

/-- The transaction level executes its words one after the other (R8, R35). -/
theorem execWords_cons {w : ReqWord} {s t : State} (h : exec (decode w) s = .next t) (ws : List ReqWord) :
    execWords (w :: ws) s = execWords ws t := by
  simp [execWords, h]

/-- Words with no legal `BUILD` among them run to the end and leave an invalid context invalid (R61). -/
theorem execWords_keeps_invalid {ws : List ReqWord} (hws : ∀ w ∈ ws, isLegalBuild w = false) {s : State}
    (hs : s.ctxValid = false) : ∃ u, execWords ws s = .next u ∧ u.ctxValid = false := by
  induction ws generalizing s with
  | nil => exact ⟨s, rfl, hs⟩
  | cons w ws ih =>
    obtain ⟨hw, hrest⟩ := List.forall_mem_cons.mp hws
    obtain ⟨t, hx⟩ := exec_total (decode w) s
    rw [execWords_cons hx]
    exact ih hrest (exec_keeps_invalid hw hs hx)

/-- Settles O14, by the refused outcome of `BUILD` and the induction over the commands after it. -/
theorem refusedBuildInvalidatesUntilRebuilt : Obligations.RefusedBuildInvalidatesUntilRebuilt := by
  intro ignored m s hm
  refine ⟨_, exec_build_of_lt hm ignored s, rfl, rfl, rfl, rspStatusOf_mkRsp _ _, rspResultOf_mkRsp _ _,
    fun ws hws => ?_⟩
  obtain ⟨u, hrun, hu⟩ := execWords_keeps_invalid (s := s.clearContext.respondError .invalidModulus) hws rfl
  exact ⟨u, hrun, hu, fun aHi aLo => by rw [exec_reduce_of_invalid hu, respondError_noContext]⟩

end Sys2Proof.Machine
end

section
/-! PROOFS. The reducer (spec/41_reducer.md): its answer in a valid context (R77), its two realisations of a
correction stage (R73), what it reads and writes (R78), and its answer without a context (R80). -/

namespace Sys2Proof.Machine

/-- With `CTX_VALID = 1` a `REDUCE` answers `OK` with the datapath's remainder (R65, R78). -/
theorem exec_reduce_of_valid {s : State} (hs : s.ctxValid = true) (aHi aLo : Word64) :
    exec (.reduce aHi aLo) s = .next (s.respond .ok (remainder (dividend aHi aLo) s.mod s.mu)) :=
  if_pos hs

/-- `OK` is the code 0, so its response word has the value of its result (R50, R51). -/
theorem mkRsp_ok_toNat (r : Word64) : (mkRsp .ok r).toNat = r.toNat := by
  rw [mkRsp_toNat, show Status.ok.code.toNat = 0 from rfl, Nat.zero_mul, Nat.zero_add]

/-- Settles O18, by the exactness of the Barrett datapath in a valid context. -/
theorem reduceAnswersTheExactRemainder : Obligations.ReduceAnswersTheExactRemainder := by
  intro aHi aLo s hs
  have ⟨hc, _, _⟩ := hs
  exact ⟨_, remainder_of_holdsContext hs aHi aLo, exec_reduce_of_valid hc aHi aLo, mkRsp_ok_toNat _⟩

/-- The multiply-and-subtract realisation gives what the mask select gives (R73). -/
theorem corrStageByMultiply_eq (r : Word128) (m : Word64) : corrStageByMultiply r m = corrStage r m := by
  rcases Nat.lt_or_ge r.toNat m.toNat with h | h
  · have hzero : zext 128 0#1 = 0#128 := rfl
    rw [corrStageByMultiply, corrGe_of_lt h, corrStage_of_lt h, hzero, BitVec.zero_mul, BitVec.sub_zero]
  · have hone : zext 128 1#1 = 1#128 := rfl
    have hm : (zext 128 m).toNat = m.toNat := zext_toNat m (by decide)
    apply BitVec.eq_of_toNat_eq
    rw [corrStageByMultiply, corrGe_of_le h, corrStage_toNat_of_le h, hone, BitVec.one_mul,
      BitVec.toNat_sub_of_le (BitVec.le_def.mpr (hm.trans_le h)), hm]

/-- Settles O22, by the two cases of the stage, with and without a borrow. -/
theorem correctionStageSubtractsWhenItMay : Obligations.CorrectionStageSubtractsWhenItMay := fun r m =>
  ⟨fun h => ⟨corrGe_of_le h, corrStage_toNat_of_le h⟩, fun h => ⟨corrGe_of_lt h, corrStage_of_lt h⟩,
    corrStageByMultiply_eq r m⟩

/-- A `REDUCE` leaves the context as it was (R17, R78). -/
theorem exec_reduce_sameContext {aHi aLo : Word64} {s t : State} (h : exec (.reduce aHi aLo) s = .next t) :
    SameContext s t :=
  (exec_build_or_sameContext h).resolve_left nofun

/-- From two states with the same context a command answers the same response (R8). -/
theorem pendRsp_eq_of_sameContext {i : Instr} {s s' t t' : State} (hs : SameContext s s')
    (h : exec i s = .next t) (h' : exec i s' = .next t') : t.pendRsp = t'.pendRsp := by
  obtain rfl : s'.presenting t = t' := Host.Outcome.next.inj ((exec_of_sameContext hs h).symm.trans h')
  exact (State.presenting_pendRsp s' t).symm

/-- Settles O26: no command but `BUILD` writes the context, and the context is all that a command reads. -/
theorem reduceIsAPureFunction : Obligations.ReduceIsAPureFunction := by
  refine ⟨fun aHi aLo s t h => ?_, fun aHi aLo s s' t t' hmod hmu hctx h h' =>
    pendRsp_eq_of_sameContext ⟨hmod, hmu, hctx⟩ h h'⟩
  obtain ⟨hmod, hmu, hctx⟩ := exec_reduce_sameContext h
  exact ⟨hmod.symm, hmu.symm, hctx.symm⟩

/-- Settles O19, by the answer of `REDUCE` without a context, the reset values, and the refused outcome of
`BUILD`. -/
theorem reduceWithoutContextIsReported : Obligations.ReduceWithoutContextIsReported := by
  refine ⟨fun aHi aLo s hs => ?_, State.resetWith_ctxValid, fun ignored m s t hm h => ?_⟩
  · rw [exec_reduce_of_invalid hs, respondError_noContext]
  · rw [exec_build_of_lt hm] at h
    cases h
    rfl

end Sys2Proof.Machine
end

section
/-! PROOFS. The errors (spec/60_exceptions.md): the status column of R82's table as one function of the
command and the context, and the state effect each error has. -/

namespace Sys2Proof.Machine

/-! ## Which status a command reports (R46, R61, R80, R82) -/

/-- The status of a command in `s`: R82's table read from the command to its status, `OK` where no row of
it applies. -/
def reportedStatus (s : State) : Instr → Status
  | .build _ m => if m.toNat < 2 then .invalidModulus else .ok
  | .reduce _ _ => if s.ctxValid then .ok else .noContext
  | .reserved00 _ _ => .illegalOp
  | .reserved11 _ _ => .illegalOp

/-- The four status codes are different (R51). -/
theorem code_inj {st st' : Status} : st.code = st'.code ↔ st = st' := by
  cases st <;> cases st' <;> decide

section errors

variable {i : Instr} {s t : State}

theorem rspStatusOf_exec (h : exec i s = .next t) : rspStatusOf t.pendRsp = (reportedStatus s i).code := by
  rcases exec_cases h with ⟨x, m, rfl, hm, rfl⟩ | ⟨x, m, rfl, hm, rfl⟩ | ⟨_, _, rfl, hc, rfl⟩ |
    ⟨_, _, rfl, hc, rfl⟩ | ⟨_, _, rfl | rfl, rfl⟩
  · have hlt : m.toNat < 2 := BitVec.lt_def.mp hm
    simp [reportedStatus, hlt]
  · have hge : ¬ m.toNat < 2 := fun hlt => hm (BitVec.lt_def.mpr hlt)
    simp [reportedStatus, hge]
  · simp [reportedStatus, hc]
  · simp [reportedStatus, hc]
  · simp [reportedStatus]
  · simp [reportedStatus]

/-- A response carries the code of `st` exactly when `st` is the status the command reports. -/
theorem rspStatusOf_exec_eq_code_iff (h : exec i s = .next t) (st : Status) :
    rspStatusOf t.pendRsp = st.code ↔ reportedStatus s i = st := by
  rw [rspStatusOf_exec h, code_inj]

theorem reportedStatus_eq_invalidModulus_iff :
    reportedStatus s i = .invalidModulus ↔ ∃ x m, i = .build x m ∧ m.toNat < 2 := by
  cases i <;> simp [reportedStatus, ite_eq_iff]

theorem reportedStatus_eq_noContext_iff :
    reportedStatus s i = .noContext ↔ ∃ aHi aLo, i = .reduce aHi aLo ∧ s.ctxValid = false := by
  cases i <;> simp [reportedStatus, ite_eq_iff]

theorem reportedStatus_eq_illegalOp_iff :
    reportedStatus s i = .illegalOp ↔ (∃ x y, i = .reserved00 x y) ∨ ∃ x y, i = .reserved11 x y := by
  cases i <;> simp [reportedStatus, ite_eq_iff]

/-! ## What an error does (R52, R82, R84) -/

/-- Every response but `OK` has result 0 (R52). -/
theorem rspResultOf_exec_of_error (h : exec i s = .next t) (hst : rspStatusOf t.pendRsp ≠ Status.ok.code) :
    rspResultOf t.pendRsp = 0#64 := by
  rcases exec_response_cases h with ⟨st, -, hrsp⟩ | ⟨_, _, -, hrsp⟩ | ⟨_, _, -, -, hrsp⟩
  · rw [hrsp, rspResultOf_mkRsp]
  · rw [hrsp, rspResultOf_mkRsp]
  · rw [hrsp, rspStatusOf_mkRsp] at hst
    exact absurd rfl hst

/-- `INVALID_MODULUS` clears the context (R61). -/
theorem exec_clears_of_invalidModulus (h : exec i s = .next t) (hst : reportedStatus s i = .invalidModulus) :
    t.mod = 0#64 ∧ t.mu = 0#128 ∧ t.ctxValid = false := by
  obtain ⟨x, m, rfl, hm⟩ := reportedStatus_eq_invalidModulus_iff.mp hst
  rw [exec_build_of_lt hm] at h
  cases h
  exact ⟨rfl, rfl, rfl⟩

/-- `NO_CONTEXT` and `ILLEGAL_OP` are no answers of a `BUILD`, so they leave the context as it was (R17). -/
theorem exec_sameContext_of_error (h : exec i s = .next t)
    (hst : reportedStatus s i = .noContext ∨ reportedStatus s i = .illegalOp) : SameContext s t := by
  refine (exec_build_or_sameContext h).resolve_left ?_
  rintro ⟨x, m, rfl⟩
  rw [reportedStatus_eq_noContext_iff, reportedStatus_eq_illegalOp_iff] at hst
  rcases hst with ⟨_, _, hi, -⟩ | ⟨_, _, hi⟩ | ⟨_, _, hi⟩ <;> cases hi

end errors

/-- Settles O27, by the status each command reports and the effect of each error. -/
theorem errorsAreExactlyTheTable : Obligations.ErrorsAreExactlyTheTable := by
  intro i s t h
  have hcode := rspStatusOf_exec_eq_code_iff h
  refine ⟨(hcode .invalidModulus).trans reportedStatus_eq_invalidModulus_iff,
    (hcode .noContext).trans reportedStatus_eq_noContext_iff,
    (hcode .illegalOp).trans reportedStatus_eq_illegalOp_iff, rspResultOf_exec_of_error h,
    fun hst => exec_clears_of_invalidModulus h ((hcode .invalidModulus).mp hst), fun hst => ?_⟩
  obtain ⟨hmod, hmu, hctx⟩ :=
    exec_sameContext_of_error h (hst.imp (hcode .noContext).mp (hcode .illegalOp).mp)
  exact ⟨hmod.symm, hmu.symm, hctx.symm⟩

end Sys2Proof.Machine
end

section
/-! PROOFS. Reset and the handshake (spec/70_reset_and_hazards.md): the reset edge (R94 to R96), when a request
and a response transfer (R100 to R103), how long a command takes and on what that depends (R108, R109), and
what a host that builds first is answered (R98). -/

namespace Sys2Proof.Machine

/-! ## The timing of a run depends on `op` only (R108) -/

/-- Reset takes precedence over whatever the edge would do (R94). -/
theorem step_reset_of_sample {s : State} (hr : s.sample.rst = true) : step s = .next s.sampled.applyReset :=
  if_pos hr

/-- A run of `k + 1` edges that ends in a state is an edge and a run of `k`. -/
theorem exists_step_of_run_succ {k : Nat} {s t : State} (h : Sys2Proof.core.run (k + 1) s = .next t) :
    ∃ u, step s = .next u ∧ Sys2Proof.core.run k u = .next t := by
  simp only [Host.Core.run] at h
  split at h
  · exact ⟨_, ‹_›, h⟩
  · cases h
  · cases h

section timing

variable {s s' t t' : State}

/-- Two hosts whose lists of samples differ in operands only drive the same controls at the next edge, where
both or neither have run out (log entry 2), and differ in operands only after it. -/
theorem sameControl_sample (h : List.Forall₂ SameControl s.inputs s'.inputs) :
    SameControl s.sample s'.sample ∧ List.Forall₂ SameControl s.inputs.tail s'.inputs.tail := by
  unfold State.sample
  generalize s.inputs = ps at h ⊢
  generalize s'.inputs = ps' at h ⊢
  cases h with
  | nil => exact ⟨⟨rfl, rfl, rfl, rfl⟩, .nil⟩
  | cons hp hps => exact ⟨hp, hps⟩

/-- `LAT(op)` of the accepted command reads nothing in which the two machines may differ (R108). -/
theorem pendLatency_eq_of_sameTiming (h : SameTiming s s') : s.pendLatency = s'.pendLatency := by
  obtain ⟨-, -, hlat, hop, -⟩ := h
  rw [State.pendLatency, State.pendLatency, hlat, hop]

/-- Two commands, each run in one of the machines, leave the timing the same: a command writes nothing of it but
`FSM`, and that to `RESP`. -/
theorem exec_sameTiming {i i' : Instr} (hs : SameTiming s s') (h : exec i s = .next t)
    (h' : exec i' s' = .next t') : SameTiming t t' := by
  obtain ⟨-, hcnt, hlat, hop, hin⟩ := hs
  obtain ⟨hfsmT, hreqT, hcntT, hlatT, hinT, -⟩ := exec_presents h
  obtain ⟨hfsmT', hreqT', hcntT', hlatT', hinT', -⟩ := exec_presents h'
  rw [SameTiming, hfsmT, hfsmT', hcntT, hcntT', hlatT, hlatT', hreqT, hreqT', hinT, hinT']
  exact ⟨rfl, hcnt, hlat, hop, hin⟩

/-- One edge: both machines take the same one of the sequencer's transitions (R24), and it writes `FSM`, `CNT`
and the `op` of `PEND_REQ` from the control inputs and the latency alone. -/
theorem step_sameTiming (hs : SameTiming s s') (h : step s = .next t) (h' : step s' = .next t') :
    SameTiming t t' := by
  have hpl := pendLatency_eq_of_sameTiming hs
  obtain ⟨hfsm, hcnt, hlat, hop, hin⟩ := hs
  obtain ⟨⟨hrst, hvalid, hsop, hready⟩, htail⟩ := sameControl_sample hin
  rcases step_cases h with ⟨hr, rfl⟩ | ⟨hr, hf, hv, rfl⟩ | ⟨hr, hf, hv, rfl⟩ | ⟨hr, hf, hc, hx⟩ |
    ⟨hr, hf, hc, rfl⟩ | ⟨hr, hf, hv, rfl⟩ | ⟨hr, hf, hv, rfl⟩ <;>
    rw [hrst] at hr
  · cases (step_reset_of_sample hr).symm.trans h'
    exact ⟨rfl, rfl, hlat, rfl, htail⟩
  all_goals rw [hfsm] at hf
  · cases (step_accept_of_sample hr hf (hvalid ▸ hv)).symm.trans h'
    exact ⟨rfl, rfl, hlat, by simpa using hsop, htail⟩
  · cases (step_wait_of_sample hr hf (hvalid ▸ hv)).symm.trans h'
    exact ⟨hfsm, hcnt, hlat, hop, htail⟩
  · obtain ⟨u, hx', hstep, -⟩ := step_commit_of_sample hr hf (hcnt ▸ hpl ▸ hc)
    cases hstep.symm.trans h'
    exact exec_sameTiming (s := s.sampled) (s' := s'.sampled) ⟨hfsm, hcnt, hlat, hop, htail⟩ hx hx'
  · cases (step_count_of_sample hr hf (hcnt ▸ hpl ▸ hc)).symm.trans h'
    exact ⟨hfsm, congrArg (· + 1) hcnt, hlat, hop, htail⟩
  · cases (step_take_of_sample hr hf (hready ▸ hv)).symm.trans h'
    exact ⟨rfl, hcnt, hlat, hop, htail⟩
  · cases (step_hold_of_sample hr hf (hready ▸ hv)).symm.trans h'
    exact ⟨hfsm, hcnt, hlat, hop, htail⟩

theorem run_sameTiming {k : Nat} (hs : SameTiming s s') (h : Sys2Proof.core.run k s = .next t)
    (h' : Sys2Proof.core.run k s' = .next t') : SameTiming t t' := by
  induction k generalizing s s' with
  | zero =>
    cases h
    cases h'
    exact hs
  | succ k ih =>
    obtain ⟨u, hstep, hrun⟩ := exists_step_of_run_succ h
    obtain ⟨u', hstep', hrun'⟩ := exists_step_of_run_succ h'
    exact ih (step_sameTiming hs hstep hstep') hrun hrun'

end timing

/-- Settles O47, by induction over the edges; `req_ready` and `rsp_valid` are functions of `FSM` and `rst`. -/
theorem timingDependsOnOpOnly : Obligations.TimingDependsOnOpOnly := by
  intro k s s' t t' hs h h'
  have ht := run_sameTiming hs h h'
  have ⟨hfsm, _⟩ := ht
  exact ⟨ht, fun rst => ⟨by rw [reqReady, reqReady, hfsm], by rw [rspValid, rspValid, hfsm]⟩⟩

/-! ## Reset (R94 to R96) -/

/-- Settles O35, by the equation of the reset edge. -/
theorem resetEdgeResetsEverything : Obligations.ResetEdgeResetsEverything :=
  fun _ => step_reset_of_sample

section transfers

variable {rst : Bool} {p : PortIn} {s : State}

theorem reqReady_eq_true_iff : reqReady rst s = true ↔ s.fsm = .idle ∧ rst = false := by
  simp [reqReady]

theorem rspValid_eq_true_iff : rspValid rst s = true ↔ s.fsm = .resp ∧ rst = false := by
  simp [rspValid]

theorem requestTransfers_eq_true_iff :
    requestTransfers p s = true ↔ p.reqValid = true ∧ s.fsm = .idle ∧ p.rst = false := by
  simp [requestTransfers, reqReady_eq_true_iff]

theorem responseTransfers_eq_true_iff :
    responseTransfers p s = true ↔ p.rspReady = true ∧ s.fsm = .resp ∧ p.rst = false := by
  simp [responseTransfers, rspValid_eq_true_iff]

/-- While `rst = 1` every output but `ctx_valid` is 0, whatever the state (R95). -/
theorem outputs_in_reset (s : State) :
    outputs true s = { reqReady := false, rspValid := false, rspStatus := 0#2, rspResult := 0#64,
                       ctxValid := s.ctxValid } := by
  simp [outputs, reqReady, rspValid]

/-- No request is accepted at a reset edge (R95). -/
theorem requestTransfers_in_reset (hr : p.rst = true) : requestTransfers p s = false := by
  simp [requestTransfers, reqReady, hr]

end transfers

/-- Settles O37, by the ports in reset, the equation of the reset edge and the ports of an idle block. -/
theorem outputsAreQuietInReset : Obligations.OutputsAreQuietInReset := by
  intro s
  rw [outputs_in_reset]
  refine ⟨rfl, rfl, rfl, rfl, fun hr => ⟨requestTransfers_in_reset hr, _, step_reset_of_sample hr, rfl, ?_⟩⟩
  rw [outputs_in_reset, outputs_of_idle false (State.applyReset_fsm s.sampled)]
  exact ⟨rfl, rfl, rfl⟩

/-! ## When a request transfers (R100 to R102) -/

/-- While `req_ready = 0` an edge does not read `req_valid`: a waiting request has no effect (R100). -/
theorem clockEdge_of_not_reqReady {p : PortIn} {s : State} (h : reqReady p.rst s = false) :
    clockEdge p s = clockEdge { p with reqValid := false } s := by
  cases hr : p.rst with
  | true => simp [clockEdge, hr]
  | false =>
    cases hf : s.fsm with
    | idle => simp [reqReady, hr, hf] at h
    | busy => simp [clockEdge, hr, hf]
    | resp => simp [clockEdge, hr, hf, respEdge, responseTransfers]

/-- Settles O32, by the equation of the accepting edge and what an edge reads while `req_ready = 0`. -/
theorem requestTransfersOnlyWhenReady : Obligations.RequestTransfersOnlyWhenReady := by
  refine ⟨fun s hr hv hready => ?_, fun _ _ => clockEdge_of_not_reqReady⟩
  obtain ⟨hf, -⟩ := reqReady_eq_true_iff.mp hready
  exact step_accept_of_sample hr hf hv

section outstanding

variable {s t : State}

/-- A transferring edge latches the sampled word and puts the block into `BUSY` (R100, R101). -/
theorem step_of_requestTransfers (hq : requestTransfers s.sample s = true) (h : step s = .next t) :
    t.fsm = .busy ∧ t.pendReq = s.sample.word := by
  obtain ⟨hv, hf, hr⟩ := requestTransfers_eq_true_iff.mp hq
  cases (step_accept_of_sample hr hf hv).symm.trans h
  exact ⟨rfl, rfl⟩

/-- The block comes back to `IDLE` only by reset or by the transfer of the response (R24, R102). -/
theorem step_returns_to_idle (h : step s = .next t) (hs : s.fsm ≠ .idle) (ht : t.fsm = .idle) :
    s.sample.rst = true ∨ responseTransfers s.sample s = true := by
  rcases step_cases h with ⟨hr, -⟩ | ⟨-, hf, -, -⟩ | ⟨-, hf, -, -⟩ | ⟨-, -, -, hx⟩ | ⟨-, hf, -, rfl⟩ |
    ⟨hr, hf, hv, -⟩ | ⟨-, -, -, rfl⟩
  · exact .inl hr
  · exact absurd hf hs
  · exact absurd hf hs
  · obtain ⟨hresp, -⟩ := exec_presents hx
    cases hresp.symm.trans ht
  · exact absurd ht hs
  · exact .inr (responseTransfers_eq_true_iff.mpr ⟨hv, hf, hr⟩)
  · exact absurd ht hs

/-- The edge that takes the response accepts no request and ends in `IDLE` (R102, R103). -/
theorem step_of_responseTransfers (hq : responseTransfers s.sample s = true) (h : step s = .next t) :
    requestTransfers s.sample s = false ∧ t.fsm = .idle := by
  obtain ⟨hv, hf, hr⟩ := responseTransfers_eq_true_iff.mp hq
  cases (step_take_of_sample hr hf hv).symm.trans h
  exact ⟨by simp [requestTransfers, reqReady, hf], rfl⟩

end outstanding

/-- Settles O49, by what a transfer of a request, a transfer of a response and a return to `IDLE` are. -/
theorem oneCommandIsOutstanding : Obligations.OneCommandIsOutstanding := by
  intro s t h
  refine ⟨fun hq rst => ?_, fun hs ht => ?_, fun hq => ?_⟩
  · obtain ⟨hbusy, -⟩ := step_of_requestTransfers hq h
    simp [reqReady, hbusy]
  · obtain ⟨hidle, -⟩ := reqReady_eq_true_iff.mp ht
    exact step_returns_to_idle h (by simpa [reqReady] using hs) hidle
  · obtain ⟨hno, hidle⟩ := step_of_responseTransfers hq h
    exact ⟨hno, reqReady_eq_true_iff.mpr ⟨hidle, rfl⟩⟩

/-- A host that holds its waiting request has that request accepted first (R101): at the edge where it does not
transfer the same word is presented again. -/
theorem firstAccepted_of_hostHolds {k : Nat} {s : State} {w : ReqWord} (hh : HostHolds k s)
    (hv : s.sample.reqValid = true) (hw : firstAccepted k s = some w) : w = s.sample.word := by
  induction k generalizing s with
  | zero => cases hw
  | succ k ih =>
    unfold firstAccepted at hw
    split at hw
    · exact (Option.some.inj hw).symm
    · split at hw
      · obtain ⟨hkeep, hrest⟩ := hh _ ‹_›
        obtain ⟨hv', hword⟩ := hkeep hv (Bool.eq_false_iff.mpr ‹_›)
        exact (ih hrest hv' hw).trans hword
      · cases hw
      · cases hw

/-- Settles O50, by induction over the edges at which the request waits, and by what an accepting edge latches. -/
theorem heldRequestIsTheOneAccepted : Obligations.HeldRequestIsTheOneAccepted := by
  refine ⟨fun _ _ _ => firstAccepted_of_hostHolds, fun s t hq h => ?_⟩
  obtain ⟨-, hword⟩ := step_of_requestTransfers hq h
  exact hword

/-! ## `BUSY` and `RESP` for as long as they last (R103, R109) -/

section phases

variable {s : State}

/-- `BUSY` counts, edge by edge, for as long as the last edge of the latency is still to come (R24). -/
theorem run_busy_counts {j : Nat} (hf : s.fsm = .busy) (hj : s.cnt + j < s.pendLatency)
    (hr : ∀ p ∈ s.inputs.take j, p.rst = false) :
    Sys2Proof.core.run j s = .next { s with cnt := s.cnt + j, inputs := s.inputs.drop j } := by
  induction j generalizing s with
  | zero => rfl
  | succ j ih =>
    obtain ⟨hrst, hrTail⟩ := noReset_take_succ hr
    have hj' : s.cnt + 1 + j < s.pendLatency := by omega
    rw [run_succ j (step_count_of_sample hrst hf (by omega))]
    refine (ih (s := { s with cnt := s.cnt + 1, inputs := s.inputs.tail }) hf hj' hrTail).trans ?_
    simp only [List.drop_tail, Nat.add_assoc, Nat.add_comm 1 j]

/-- A host that withholds `rst` and `rsp_ready` over its next `k + 1` samples does so in the next one and in the
`k` after it; a host with no sample left drives both to 0. -/
theorem holding_take_succ {k : Nat} (h : ∀ p ∈ s.inputs.take (k + 1), p.rst = false ∧ p.rspReady = false) :
    (s.sample.rst = false ∧ s.sample.rspReady = false) ∧
      ∀ p ∈ s.inputs.tail.take k, p.rst = false ∧ p.rspReady = false := by
  cases hi : s.inputs with
  | nil => simp [State.sample_nil s hi, PortIn.quiet]
  | cons p ps =>
    rw [hi, List.take_succ_cons, List.forall_mem_cons] at h
    rw [State.sample_cons s p ps hi]
    exact h

/-- `RESP` is held over any number of edges at which the host is not ready (R103). -/
theorem run_resp_holds {k : Nat} (hf : s.fsm = .resp)
    (hq : ∀ p ∈ s.inputs.take k, p.rst = false ∧ p.rspReady = false) :
    Sys2Proof.core.run k s = .next { s with inputs := s.inputs.drop k } := by
  induction k generalizing s with
  | zero => rfl
  | succ k ih =>
    obtain ⟨⟨hrst, hready⟩, hqTail⟩ := holding_take_succ hq
    rw [run_succ k (step_hold_of_sample hrst hf hready)]
    refine (ih (s := { s with inputs := s.inputs.tail }) hf hqTail).trans ?_
    simp only [List.drop_tail]

/-- In `RESP` the ports show the fields of `PEND_RSP` (R25). -/
theorem outputs_of_resp (hf : s.fsm = .resp) :
    outputs false s = { reqReady := false, rspValid := true, rspStatus := rspStatusOf s.pendRsp,
                        rspResult := rspResultOf s.pendRsp, ctxValid := s.ctxValid } := by
  simp [outputs, reqReady, rspValid, hf]

end phases

/-- Settles O34, by the ports in `RESP`, the equation of the taking edge and the run of the holding ones. -/
theorem responseIsHeldUntilTaken : Obligations.ResponseIsHeldUntilTaken := by
  intro s hf
  rw [outputs_of_resp hf]
  exact ⟨rspValid_eq_true_iff.mpr ⟨hf, rfl⟩, rfl, rfl, fun hr hv => step_take_of_sample hr hf hv,
    fun _ => run_resp_holds hf⟩

/-- Settles O48, by the run over the whole latency and the counting run over a part of it. -/
theorem acceptedCommandReachesItsResponse : Obligations.AcceptedCommandReachesItsResponse := by
  intro s hf hlt hr
  refine ⟨?_, fun j hj => ⟨_, run_busy_counts hf (by omega) fun p hp => ?_, hf, rfl⟩⟩
  · obtain ⟨n, hn⟩ := Nat.exists_eq_add_one.mpr (Nat.sub_pos_of_lt hlt)
    rw [hn] at hr ⊢
    exact run_busy_presents hf (by omega) hr
  · exact hr p (List.take_subset_take_left s.inputs hj.le hp)

/-! ## A host that builds first (R98) -/

section stream

variable {s t u : State} {w : ReqWord} {r : RspWord} {vs ws : List ReqWord}

/-- The responses of a stream come one command after the other (R35). -/
theorem responsesOf_cons (h : exec (decode w) s = .next t) (ws : List ReqWord) :
    responsesOf (w :: ws) s = t.pendRsp :: responsesOf ws t := by
  simp [responsesOf, h]

/-- The response to the `k`-th command of a stream is that of its `exec` in the state the commands before it
left. -/
theorem exec_of_responsesOf_getElem? {k : Nat} (hw : ws[k]? = some w) (hr : (responsesOf ws s)[k]? = some r) :
    ∃ vs rest u t, ws = vs ++ w :: rest ∧ execWords vs s = .next u ∧ exec (decode w) u = .next t ∧
      t.pendRsp = r := by
  induction ws generalizing s k with
  | nil => cases hw
  | cons v ws ih =>
    obtain ⟨t, hx⟩ := exec_total (decode v) s
    rw [responsesOf_cons hx] at hr
    cases k with
    | zero =>
      cases hw
      cases hr
      exact ⟨[], ws, s, t, rfl, rfl, hx, rfl⟩
    | succ k =>
      obtain ⟨vs, rest, u, t', rfl, hrun, hx', hrsp⟩ := ih hw hr
      exact ⟨v :: vs, rest, u, t', rfl, (execWords_cons hx vs).trans hrun, hx', hrsp⟩

/-- After a `BUILD` there is a context exactly when it was legal (R56, R61). -/
theorem exec_build_ctxValid (hop : reqOp w = opBuild) (h : exec (decode w) s = .next t) :
    t.ctxValid = isLegalBuild w := by
  rw [decode_of_build w hop] at h
  rcases Nat.lt_or_ge (reqOpnd1 w).toNat 2 with hm | hm
  · rw [exec_build_of_lt hm] at h
    cases h
    simp [isLegalBuild, hop, hm]
  · rw [exec_build_of_le hm] at h
    cases h
    simp [isLegalBuild, hop, hm]

/-- A word that is no `BUILD` leaves `CTX_VALID` as it was (R17). -/
theorem exec_keeps_ctxValid (hop : reqOp w ≠ opBuild) (h : exec (decode w) s = .next t) :
    t.ctxValid = s.ctxValid := by
  rcases exec_build_or_sameContext h with ⟨x, m, hdec⟩ | ⟨-, -, hctx⟩
  · exact absurd (eq_opBuild_of_decode_build hdec).1 hop
  · exact hctx.symm

/-- The duty of R98 passes on to the stream after a command, with the context that command leaves. -/
theorem buildsFirst_of_exec (hb : buildsFirst s.ctxValid (w :: ws) = true)
    (h : exec (decode w) s = .next t) : buildsFirst t.ctxValid ws = true := by
  unfold buildsFirst at hb
  split at hb
  · rwa [exec_build_ctxValid ‹_› h]
  · rw [exec_keeps_ctxValid ‹_› h]
    exact (Bool.and_eq_true_iff.mp hb).2

theorem buildsFirst_of_execWords (hb : buildsFirst s.ctxValid (vs ++ ws) = true)
    (h : execWords vs s = .next u) : buildsFirst u.ctxValid ws = true := by
  induction vs generalizing s with
  | nil =>
    cases h
    exact hb
  | cons v vs ih =>
    obtain ⟨t, hx⟩ := exec_total (decode v) s
    exact ih (buildsFirst_of_exec hb hx) ((execWords_cons hx vs).symm.trans h)

/-- A `REDUCE` is within the duty of R98 only where there is a context. -/
theorem ctxValid_of_buildsFirst_reduce {built : Bool} (hop : reqOp w = opReduce)
    (hb : buildsFirst built (w :: ws) = true) : built = true := by
  have hne : opReduce ≠ opBuild := by decide
  simp only [buildsFirst, hop, if_neg hne, Bool.and_eq_true] at hb
  simpa using hb.1

end stream

/-- Settles O51: the `REDUCE` runs in the state the commands before it left, which has a context when the host
builds first, and none when none of them is a legal `BUILD`. -/
theorem buildingFirstIsEnough : Obligations.BuildingFirstIsEnough := by
  refine ⟨fun ws s k w r hb hw hr hop => ?_, fun ws s k w r hs hno hw hr hop => ?_⟩ <;>
    obtain ⟨vs, rest, u, t, rfl, hrun, hx, rfl⟩ := exec_of_responsesOf_getElem? hw hr <;>
    rw [decode_of_reduce w hop] at hx
  · have hu : u.ctxValid = true := ctxValid_of_buildsFirst_reduce hop (buildsFirst_of_execWords hb hrun)
    cases (exec_reduce_of_valid hu _ _).symm.trans hx
    exact rspStatusOf_mkRsp _ _
  · obtain ⟨u', hrun', hu⟩ := execWords_keeps_invalid (fun v hv => hno v (List.mem_append_left _ hv)) hs
    cases hrun.symm.trans hrun'
    cases (exec_reduce_of_invalid hu _ _).symm.trans hx
    rfl

end Sys2Proof.Machine
end

section
/-! PROOFS. The decoder and the encoder are inverse (R41, R46, R47), and the words and answers of the assembler's
lines (R53 to R55). -/

namespace Sys2Proof.Machine

/-! ## Decoding and encoding (R41, R47) -/

theorem decode_encode (i : Instr) : decode (encode i) = i := by
  cases i with
  | build x m => rw [decode_of_build _ (reqOp_encode _), encode, reqOpnd0_mkReq, reqOpnd1_mkReq]
  | reduce aHi aLo => rw [decode_of_reduce _ (reqOp_encode _), encode, reqOpnd0_mkReq, reqOpnd1_mkReq]
  | reserved00 x y => rw [decode_of_reserved00 _ (reqOp_encode _), encode, reqOpnd0_mkReq, reqOpnd1_mkReq]
  | reserved11 x y => rw [decode_of_reserved11 _ (reqOp_encode _), encode, reqOpnd0_mkReq, reqOpnd1_mkReq]

theorem encode_decode (w : ReqWord) : encode (decode w) = w := by
  rcases op_cases (reqOp w) with hop | hop | hop | hop
  · rw [decode_of_reserved00 w hop, encode, ← hop, mkReq_fields]
  · rw [decode_of_build w hop, encode, ← hop, mkReq_fields]
  · rw [decode_of_reduce w hop, encode, ← hop, mkReq_fields]
  · rw [decode_of_reserved11 w hop, encode, ← hop, mkReq_fields]

/-- Settles O2, by the four commands and the four `op` codes. -/
theorem decodeAndEncodeAreInverse : Obligations.DecodeAndEncodeAreInverse :=
  ⟨fun i _ => decode_encode i, encode_decode⟩

/-- Settles O3, by the decoder's case for each `op` code. -/
theorem opFieldSelectsTheCommand : Obligations.OpFieldSelectsTheCommand := fun w =>
  ⟨decode_of_reserved00 w, decode_of_build w, decode_of_reduce w, decode_of_reserved11 w⟩

/-- Settles O1: five closed words, each decoded. -/
theorem writtenOutWordsDecode : Obligations.WrittenOutWordsDecode := by
  unfold Obligations.WrittenOutWordsDecode
  decide

/-- Settles O7, by the meaning of each reserved command. -/
theorem reservedCommandsAnswerIllegalOp : Obligations.ReservedCommandsAnswerIllegalOp := fun x y s =>
  ⟨(exec_reserved00 x y s).trans (congrArg _ (respondError_illegalOp s)),
    (exec_reserved11 x y s).trans (congrArg _ (respondError_illegalOp s))⟩

/-! ## The assembler's lines (R53 to R55) -/

theorem assemble_of_wellFormed {l : AsmLine} (h : l.wellFormed = true) :
    assemble l = coreWord (expandLine l) := if_pos h

theorem assemble_of_illFormed {l : AsmLine} (h : l.wellFormed = false) : assemble l = none :=
  if_neg (Bool.eq_false_iff.mp h)

/-- Literals within their ranges stand in the word as they are (R41, R53). -/
theorem mkReq_ofNat_toNat {op x y : Nat} (hop : op < 4) (hx : x < 2 ^ 64) (hy : y < 2 ^ 64) :
    (mkReq (BitVec.ofNat 2 op) (BitVec.ofNat 64 x) (BitVec.ofNat 64 y)).toNat =
      op * 2 ^ 128 + x * 2 ^ 64 + y := by
  rw [mkReq_toNat, BitVec.toNat_ofNat, BitVec.toNat_ofNat, BitVec.toNat_ofNat, Nat.mod_eq_of_lt hop,
    Nat.mod_eq_of_lt hx, Nat.mod_eq_of_lt hy]

theorem assemble_build {m : Nat} (hm : m < 2 ^ 64) :
    (assemble (.build m)).map BitVec.toNat = some (1 * 2 ^ 128 + 0 * 2 ^ 64 + m) := by
  rw [assemble_of_wellFormed (by simpa [AsmLine.wellFormed] using hm)]
  exact congrArg some (mkReq_ofNat_toNat (by decide) (by decide) hm)

theorem assemble_reduce {aHi aLo : Nat} (hHi : aHi < 2 ^ 64) (hLo : aLo < 2 ^ 64) :
    assemble (.reduce aHi aLo) = some (mkReq opReduce (BitVec.ofNat 64 aHi) (BitVec.ofNat 64 aLo)) :=
  assemble_of_wellFormed (by simpa [AsmLine.wellFormed] using ⟨hHi, hLo⟩)

theorem assemble_reduce_toNat {aHi aLo : Nat} (hHi : aHi < 2 ^ 64) (hLo : aLo < 2 ^ 64) :
    (assemble (.reduce aHi aLo)).map BitVec.toNat = some (2 * 2 ^ 128 + aHi * 2 ^ 64 + aLo) := by
  rw [assemble_reduce hHi hLo]
  exact congrArg some (mkReq_ofNat_toNat (by decide) hHi hLo)

theorem assemble_req {op x y : Nat} (hop : op < 4) (hx : x < 2 ^ 64) (hy : y < 2 ^ 64) :
    (assemble (.req op x y)).map BitVec.toNat = some (op * 2 ^ 128 + x * 2 ^ 64 + y) := by
  rw [assemble_of_wellFormed (by simpa [AsmLine.wellFormed, and_assoc] using ⟨hop, hx, hy⟩)]
  exact congrArg some (mkReq_ofNat_toNat hop hx hy)

/-- `REDUCE128` stands for the `REDUCE` of its two halves (R54). -/
theorem assemble_reduce128 {a : Nat} (ha : a < 2 ^ 128) :
    assemble (.reduce128 a) = assemble (.reduce (a / 2 ^ 64) (a % 2 ^ 64)) := by
  rw [assemble_of_wellFormed (by simpa [AsmLine.wellFormed] using ha),
    assemble_reduce (by omega) (Nat.mod_lt _ (by decide))]
  rfl

/-- `MODMUL` stands for the `REDUCE` of the exact product's two halves (R54). -/
theorem assemble_modmul {x y : Nat} (hx : x < 2 ^ 64) (hy : y < 2 ^ 64) :
    assemble (.modmul x y) =
      some (mkReq opReduce (BitVec.ofNat 64 (x * y / 2 ^ 64)) (BitVec.ofNat 64 (x * y % 2 ^ 64))) :=
  assemble_of_wellFormed (by simpa [AsmLine.wellFormed] using ⟨hx, hy⟩)

/-- Settles O8, by the word of each line form. -/
theorem assemblerLinesGiveTheirWords : Obligations.AssemblerLinesGiveTheirWords := by
  refine ⟨fun _ => assemble_build, fun _ _ => assemble_reduce_toNat, fun _ _ _ => assemble_req,
    fun a ha => ⟨assemble_reduce128 ha, ?_⟩, fun _ => assemble_of_illFormed⟩
  rw [assemble_reduce128 ha, assemble_reduce_toNat (by omega) (Nat.mod_lt _ (by decide)), Nat.add_assoc,
    Nat.div_add_mod']

/-- The two halves of a number below `2^128` are the operands of its dividend (R44, R54). -/
theorem ofNat_halves_toNat {a : Nat} (ha : a < 2 ^ 128) :
    (BitVec.ofNat 64 (a / 2 ^ 64)).toNat * 2 ^ 64 + (BitVec.ofNat 64 (a % 2 ^ 64)).toNat = a := by
  rw [BitVec.toNat_ofNat, BitVec.toNat_ofNat, Nat.mod_mod, Nat.mod_eq_of_lt (by omega), Nat.div_add_mod']

/-- Settles O9: the line is the `REDUCE` of the exact product, which a valid context reduces exactly. -/
theorem modmulGivesTheProductModulo : Obligations.ModmulGivesTheProductModulo := by
  intro x y s hx hy hs
  have ⟨hc, _, _⟩ := hs
  have hprod : x * y < 2 ^ 128 := (Nat.mul_lt_mul'' hx hy).trans_eq (by decide)
  have hReduce := exec_reduce_of_valid hc (BitVec.ofNat 64 (x * y / 2 ^ 64)) (BitVec.ofNat 64 (x * y % 2 ^ 64))
  rw [← decode_encode (.reduce _ _)] at hReduce
  refine ⟨_, _, assemble_modmul hx hy, hReduce, rspStatusOf_mkRsp _ _, ?_⟩
  rw [State.respond_pendRsp, rspResultOf_mkRsp, remainder_of_holdsContext hs, ofNat_halves_toNat hprod]

end Sys2Proof.Machine
end

section
/-! PROOFS. The constant of a context (spec/40_context_builder.md): the long division of R60 computes it, R58's
bounds hold of it, R59's shortcuts miss it as that rule says, and the next `REDUCE` uses it (R64). -/

namespace Sys2Proof.Machine

/-! ## One iteration of the long division (R60) -/

section longDivisionStep

variable {m : Word64} {t : BitVec 65} {i : Nat} {d : LongDivision}

/-- `t = 2*rem + bit` of R60. -/
def LongDivision.trial (i : Nat) (d : LongDivision) : BitVec 65 :=
  2#65 * d.rem + if i = 128 then 1#65 else 0#65

/-- `t - m` in 66 bits, its top bit the borrow. -/
def trialDiff (m : Word64) (t : BitVec 65) : BitVec 66 := zext 66 t - zext 66 m

/-- `ge` of R60: no borrow. -/
def trialGe (m : Word64) (t : BitVec 65) : BitVec 1 := ~~~ ((trialDiff m t).extractLsb' 65 1)

/-- The iteration as a mask select between `t - m` and `t`. -/
theorem longDivisionStep_eq (m : Word64) (i : Nat) (d : LongDivision) :
    longDivisionStep m i d =
      { rem := ((trialDiff m (d.trial i)).setWidth 65 &&& replicateBit 65 (trialGe m (d.trial i))) |||
          (d.trial i &&& ~~~ replicateBit 65 (trialGe m (d.trial i)))
        q := d.q ||| (zext 129 (trialGe m (d.trial i)) <<< i) } := rfl

theorem trialDiff_toNat_of_le (h : m.toNat ≤ t.toNat) : (trialDiff m t).toNat = t.toNat - m.toNat := by
  have ht : (zext 66 t).toNat = t.toNat := zext_toNat t (by decide)
  have hm : (zext 66 m).toNat = m.toNat := zext_toNat m (by decide)
  rw [trialDiff, BitVec.toNat_sub_of_le (BitVec.le_def.mpr (by omega)), ht, hm]

theorem trialDiff_toNat_of_lt (h : t.toNat < m.toNat) :
    (trialDiff m t).toNat = 2 ^ 66 - (m.toNat - t.toNat) := by
  have ht : (zext 66 t).toNat = t.toNat := zext_toNat t (by decide)
  have hm : (zext 66 m).toNat = m.toNat := zext_toNat m (by decide)
  have hm64 := m.isLt
  rw [trialDiff, BitVec.toNat_sub, ht, hm]
  omega

theorem trialGe_of_le (h : m.toNat ≤ t.toNat) : trialGe m t = 1#1 := by
  have hbit : (trialDiff m t).extractLsb' 65 1 = 0#1 := by
    apply BitVec.eq_of_toNat_eq
    have ht := t.isLt
    rw [BitVec.extractLsb'_toNat, Nat.shiftRight_eq_div_pow, trialDiff_toNat_of_le h,
      Nat.div_eq_of_lt (by omega)]
    rfl
  rw [trialGe, hbit]
  rfl

theorem trialGe_of_lt (h : t.toNat < m.toNat) : trialGe m t = 0#1 := by
  have hbit : (trialDiff m t).extractLsb' 65 1 = 1#1 := by
    apply BitVec.eq_of_toNat_eq
    have hm := m.isLt
    rw [BitVec.extractLsb'_toNat, Nat.shiftRight_eq_div_pow, trialDiff_toNat_of_lt h,
      show (2 ^ 66 - (m.toNat - t.toNat)) / 2 ^ 65 = 1 by omega]
    rfl
  rw [trialGe, hbit]
  rfl

theorem longDivisionStep_of_le (h : m.toNat ≤ (d.trial i).toNat) :
    longDivisionStep m i d = { rem := (trialDiff m (d.trial i)).setWidth 65, q := d.q ||| (1#129 <<< i) } := by
  have hone : zext 129 1#1 = 1#129 := rfl
  rw [longDivisionStep_eq, trialGe_of_le h, replicateBit_one, hone]
  simp only [BitVec.and_allOnes, BitVec.not_allOnes, BitVec.and_zero, BitVec.or_zero]

theorem longDivisionStep_of_lt (h : (d.trial i).toNat < m.toNat) :
    longDivisionStep m i d = { rem := d.trial i, q := d.q } := by
  have hzero : zext 129 0#1 = 0#129 := rfl
  rw [longDivisionStep_eq, trialGe_of_lt h, replicateBit_zero, hzero]
  simp only [BitVec.and_zero, BitVec.not_zero, BitVec.and_allOnes, BitVec.zero_or, BitVec.zero_shiftLeft,
    BitVec.or_zero]

/-- A remainder below a 64-bit modulus leaves room for the next bit of the numerator. -/
theorem trial_toNat (h : d.rem.toNat < m.toNat) :
    (d.trial i).toNat = 2 * d.rem.toNat + if i = 128 then 1 else 0 := by
  have hm := m.isLt
  rw [LongDivision.trial, BitVec.toNat_add, BitVec.toNat_mul]
  split <;> simp only [BitVec.toNat_ofNat] <;> omega

/-- A quotient bit is set below the bits so far, which are a multiple of `2^(n+1)`. -/
theorem setBit_toNat {q : BitVec 129} {k n : Nat} (hn : n < 129) (hq : q.toNat = k * 2 ^ (n + 1)) :
    (q ||| (1#129 <<< n)).toNat = (2 * k + 1) * 2 ^ n := by
  have hlt : 2 ^ n < 2 ^ (n + 1) := Nat.pow_lt_pow_right (by decide) (Nat.lt_succ_self n)
  have hbit : (1#129 <<< n).toNat = 2 ^ n := by
    rw [← BitVec.twoPow_eq, BitVec.toNat_twoPow, Nat.mod_eq_of_lt (Nat.pow_lt_pow_right (by decide) hn)]
  rw [BitVec.toNat_or, hbit, hq, ← Nat.shiftLeft_eq, ← Nat.shiftLeft_add_eq_or_of_lt hlt, Nat.shiftLeft_eq]
  ring

end longDivisionStep

/-! ## The loop (R60) -/

/-- The bits of the numerator `2^128` from bit `n` up: what the iterations above `n` have divided. -/
def numeratorFrom (n : Nat) : Nat := 2 ^ 128 / 2 ^ n

/-- The next bit of the numerator is 1 at bit 128 only. -/
theorem numeratorFrom_step (n : Nat) :
    numeratorFrom n = 2 * numeratorFrom (n + 1) + if n = 128 then 1 else 0 := by
  have hbit : numeratorFrom n % 2 = if n = 128 then 1 else 0 := by
    have htest := Nat.testBit_two_pow (n := 128) (m := n)
    rw [Nat.testBit_eq_decide_div_mod_eq, decide_eq_decide] at htest
    rw [numeratorFrom]
    split <;> omega
  have hhalf : numeratorFrom (n + 1) = numeratorFrom n / 2 := by
    rw [numeratorFrom, numeratorFrom, pow_succ 2 n, Nat.div_div_eq_div_mul]
  rw [← hbit, hhalf, Nat.div_add_mod]

/-- With the iterations down to `n` done: `rem` and `q` are remainder and quotient of the numerator's bits from
`n` up, the quotient in its place. -/
def LongDivisionInv (m : Word64) (n : Nat) (d : LongDivision) : Prop :=
  d.rem.toNat = numeratorFrom n % m.toNat ∧ d.q.toNat = numeratorFrom n / m.toNat * 2 ^ n

section longDivision

variable {m : Word64}

theorem longDivisionStep_inv (hm : 0 < m.toNat) {n : Nat} (hn : n < 129) {d : LongDivision}
    (hd : LongDivisionInv m (n + 1) d) : LongDivisionInv m n (longDivisionStep m n d) := by
  obtain ⟨hrem, hq⟩ := hd
  have hlt : d.rem.toNat < m.toNat := hrem.trans_lt (Nat.mod_lt _ hm)
  have ht := trial_toNat (i := n) hlt
  have ht2 : (d.trial n).toNat < 2 * m.toNat := by split at ht <;> omega
  have hnum : (d.trial n).toNat + m.toNat * (2 * (numeratorFrom (n + 1) / m.toNat)) = numeratorFrom n := by
    have hdiv := Nat.div_add_mod (numeratorFrom (n + 1)) m.toNat
    rw [numeratorFrom_step n, ht, hrem, Nat.mul_left_comm]
    omega
  rcases Nat.lt_or_ge (d.trial n).toNat m.toNat with hge | hge
  · obtain ⟨hquot, hmod⟩ := (Nat.div_mod_unique hm).mpr ⟨hnum, hge⟩
    rw [longDivisionStep_of_lt hge]
    exact ⟨hmod.symm, by rw [hquot, hq, Nat.pow_succ]; ring⟩
  · have hnum' : (d.trial n).toNat - m.toNat + m.toNat * (2 * (numeratorFrom (n + 1) / m.toNat) + 1) =
        numeratorFrom n := by
      rw [Nat.mul_add_one]
      omega
    obtain ⟨hquot, hmod⟩ := (Nat.div_mod_unique hm).mpr ⟨hnum', by omega⟩
    have hfits : (d.trial n).toNat - m.toNat < 2 ^ 65 := (Nat.sub_le _ _).trans_lt (d.trial n).isLt
    rw [longDivisionStep_of_le hge]
    refine ⟨?_, (setBit_toNat hn hq).trans (by rw [hquot])⟩
    rw [BitVec.toNat_setWidth, trialDiff_toNat_of_le hge, Nat.mod_eq_of_lt hfits, hmod]

theorem longDivisionFrom_inv (hm : 0 < m.toNat) {n : Nat} (hn : n ≤ 129) {d : LongDivision}
    (hd : LongDivisionInv m n d) : LongDivisionInv m 0 (longDivisionFrom m n d) := by
  induction n generalizing d with
  | zero => exact hd
  | succ n ih => exact ih (by omega) (longDivisionStep_inv hm hn hd)

/-- The loop's quotient is the exact one. -/
theorem longDivision_q_toNat (hm : 0 < m.toNat) :
    (longDivisionFrom m 129 { rem := 0#65, q := 0#129 }).q.toNat = 2 ^ 128 / m.toNat := by
  have hstart : LongDivisionInv m 129 { rem := 0#65, q := 0#129 } := by
    have hzero : numeratorFrom 129 = 0 := Nat.div_eq_of_lt (by decide)
    rw [LongDivisionInv, hzero, Nat.zero_mod, Nat.zero_div]
    exact ⟨rfl, rfl⟩
  obtain ⟨-, hq⟩ := longDivisionFrom_inv hm le_rfl hstart
  rw [hq, numeratorFrom, Nat.pow_zero, Nat.div_one, Nat.mul_one]

/-- A `BUILD` of a legal modulus writes the constant of R57. -/
theorem exec_build_mu (hm : 2 ≤ m.toNat) {ignored : Word64} {s t : State}
    (h : exec (.build ignored m) s = .next t) : t.mu = muOf m := by
  cases (exec_build_of_le hm ignored s).symm.trans h
  rfl

theorem exec_build_mu_toNat (hm : 2 ≤ m.toNat) {ignored : Word64} {s t : State}
    (h : exec (.build ignored m) s = .next t) : t.mu.toNat = 2 ^ 128 / m.toNat := by
  rw [exec_build_mu hm h, muOf_toNat hm]

/-- The constant of a legal modulus needs no more than 128 bits (R58). -/
theorem mu_le (hm : 2 ≤ m.toNat) : 2 ^ 128 / m.toNat ≤ 2 ^ 127 :=
  (Nat.div_le_div_left hm (by decide)).trans_eq (by decide)

/-- The constant of any modulus needs more than 64 bits (R58). -/
theorem le_mu (hm : 2 ≤ m.toNat) : 2 ^ 64 + 1 ≤ 2 ^ 128 / m.toNat := by
  have hm64 := m.isLt
  rw [Nat.le_div_iff_mul_le (by omega)]
  omega

end longDivision

/-- Settles O15, by the loop's invariant: both are the exact quotient, which is below `2^128`. -/
theorem longDivisionComputesTheBuiltMu : Obligations.LongDivisionComputesTheBuiltMu := by
  intro ignored m s t hm h
  have hq := longDivision_q_toNat (m := m) (by omega)
  have hfits : 2 ^ 128 / m.toNat < 2 ^ 128 := (mu_le hm).trans_lt (by decide)
  refine ⟨BitVec.eq_of_toNat_eq ?_, Nat.testBit_lt_two_pow (hq.trans_lt hfits)⟩
  rw [muByLongDivision, BitVec.toNat_setWidth, hq, Nat.mod_eq_of_lt hfits, exec_build_mu_toNat hm h]

/-! ## The constant's bounds and the shortcuts that miss it (R58, R59) -/

/-- Settles O11, by the bounds of the exact quotient. -/
theorem builtMuFitsItsRegister : Obligations.BuiltMuFitsItsRegister := by
  intro ignored m s t h
  refine ⟨fun hm => ?_, fun hm => by rw [hm]; decide⟩
  have hmu := exec_build_mu_toNat hm h
  have hlow := (le_mu hm).trans_eq hmu.symm
  have hhigh := hmu.trans_le (mu_le hm)
  refine ⟨hmu, hlow, hhigh, fun hzero => ?_⟩
  have hdiv : t.mu.toNat / 2 ^ 64 % 2 ^ 64 = 0 := by
    rw [← Nat.shiftRight_eq_div_pow, ← BitVec.extractLsb'_toNat, hzero]
    rfl
  omega

/-- Doubling a quotient loses the carry of the doubled remainder (R59). -/
theorem two_mul_div_add_carry {n k : Nat} (hk : 0 < k) :
    2 * (n / k) + (if k ≤ 2 * (n % k) then 1 else 0) = 2 * n / k := by
  have hcarry : 2 * (n % k) / k = if k ≤ 2 * (n % k) then 1 else 0 := by
    have hmod := Nat.mod_lt n hk
    split
    · exact Nat.div_eq_of_lt_le (by omega) (by omega)
    · exact Nat.div_eq_of_lt (by omega)
  calc 2 * (n / k) + (if k ≤ 2 * (n % k) then 1 else 0)
      = 2 * (n % k) / k + 2 * (n / k) := by rw [hcarry, Nat.add_comm]
    _ = (2 * (n % k) + k * (2 * (n / k))) / k := (Nat.add_mul_div_left _ _ hk).symm
    _ = 2 * n / k := by rw [Nat.mul_left_comm, ← Nat.mul_add, Nat.mod_add_div]

/-- Settles O16, by the carry of the doubled remainder and the step of a quotient at a multiple. -/
theorem forbiddenShortcutsMissTheBuiltMu : Obligations.ForbiddenShortcutsMissTheBuiltMu := by
  intro ignored m s t hm h
  have hpos : 0 < m.toNat := by omega
  rw [exec_build_mu_toNat hm h]
  refine ⟨two_mul_div_add_carry hpos, Nat.succ_div.symm, fun k hk => ?_⟩
  have hk64 : k < 64 := (Nat.pow_lt_pow_iff_right (by decide)).mp (hk ▸ m.isLt)
  rw [hk]
  exact (Nat.mul_div_assoc 2 (Nat.pow_dvd_pow 2 (by omega))).symm

/-! ## The `REDUCE` after a `BUILD` (R64, R105) -/

/-- A `BUILD` of a legal modulus leaves a valid context of that modulus (R16, R56). -/
theorem holdsContext_of_build {m : Word64} (hm : 2 ≤ m.toNat) (s : State) (st : Status) (r : Word64) :
    ((s.writeContext m (muOf m) true).respond st r).holdsContext :=
  ⟨rfl, hm, muOf_toNat hm⟩

/-- Settles O17, by the context a `BUILD` leaves and the exactness of a `REDUCE` in it. -/
theorem reduceAfterBuildUsesItsModulus : Obligations.ReduceAfterBuildUsesItsModulus := by
  intro ignored m aHi aLo s hm
  have hBuild := exec_build_of_le hm ignored s
  have hReduce := exec_reduce_of_valid (s := (s.writeContext m (muOf m) true).respond .ok 0#64) rfl aHi aLo
  rw [← decode_encode (.build ignored m)] at hBuild
  rw [← decode_encode (.reduce aHi aLo)] at hReduce
  refine ⟨_, (execWords_cons hBuild _).trans (execWords_cons hReduce _), rspStatusOf_mkRsp _ _, ?_⟩
  rw [State.respond_pendRsp, rspResultOf_mkRsp,
    remainder_of_holdsContext (holdsContext_of_build hm s .ok 0#64) aHi aLo]
  rfl

end Sys2Proof.Machine
end

section
/-! PROOFS. The bounds of the reducer (spec/41_reducer.md): the estimate (R68 to R70), the candidate (R71), the
two correction stages (R72), and the widths every intermediate is held in (R74 to R76). -/

namespace Sys2Proof.Machine

section bounds

variable {a mu : Word128} {m : Word64} {e : Nat}

/-- The estimate is never above the quotient (R68). -/
theorem qHat_le (hm : 0 < m.toNat) (hmu : mu.toNat + e = 2 ^ 128 / m.toNat) :
    (qHat a mu).toNat ≤ a.toNat / m.toNat :=
  (Nat.le_div_iff_mul_le hm).mpr (qHat_mul_le hmu)

/-- The quotient is at most `1 + e` above the estimate (R69, R70). -/
theorem div_le_qHat_add (hm : 0 < m.toNat) (hmu : mu.toNat + e = 2 ^ 128 / m.toNat) :
    a.toNat / m.toNat ≤ (qHat a mu).toNat + (1 + e) := by
  have hlt := (Nat.div_lt_iff_lt_mul hm).mpr (lt_qHat_add_mul (a := a) hm hmu)
  omega

/-- A legal modulus leaves a quotient of at most 127 bits. -/
theorem div_modulus_lt (hm : 2 ≤ m.toNat) : a.toNat / m.toNat < 2 ^ 127 := by
  have ha := a.isLt
  rw [Nat.div_lt_iff_lt_mul (by omega)]
  omega

/-- A dividend whose upper half is above the modulus has a quotient above `2^64` (R68). -/
theorem lt_div_of_lt_hi (hm : 0 < m.toNat) (h : m.toNat < (a.extractLsb' 64 64).toNat) :
    2 ^ 64 < a.toNat / m.toNat := by
  rw [BitVec.extractLsb'_toNat, Nat.shiftRight_eq_div_pow] at h
  rw [← Nat.succ_le_iff, Nat.le_div_iff_mul_le hm]
  have hm64 := m.isLt
  have ha := a.isLt
  omega

end bounds

/-- Settles O20, by the two bounds of the estimate against the quotient and the size of the quotient. -/
theorem quotientEstimateIsAtMostOneLow : Obligations.QuotientEstimateIsAtMostOneLow := by
  intro a mu m hm hmu
  have hpos : 0 < m.toNat := by omega
  have hle : (qHat a mu).toNat ≤ a.toNat / m.toNat := qHat_le (e := 0) hpos hmu
  have hge : a.toNat / m.toNat ≤ (qHat a mu).toNat + 1 := div_le_qHat_add (e := 0) hpos hmu
  refine ⟨qHat_toNat a mu, hle, hge.trans (Nat.le_succ _), hge, hle.trans_lt (div_modulus_lt hm),
    fun ha => ?_, fun ha => ?_⟩
  · exact hle.trans_lt ((Nat.div_lt_iff_lt_mul hpos).mpr (ha.trans_eq (Nat.mul_comm _ _)))
  · exact Nat.le_of_lt_succ ((lt_div_of_lt_hi hpos ha).trans_le hge)

/-- Settles O21, by the exact difference and its bound. -/
theorem candidateRemainderIsBelowTwiceTheModulus : Obligations.CandidateRemainderIsBelowTwiceTheModulus := by
  intro a mu m hm hmu
  have hm64 := m.isLt
  exact ⟨qHat_mul_le (e := 0) hmu, candidate_toNat (e := 0) hmu, candidate_lt (e := 0) (by omega) hmu, by omega⟩

/-- One stage reduces every value below `2m` (R72). -/
theorem corrStage_lt {r : Word128} {m : Word64} (h : r.toNat < 2 * m.toNat) :
    (corrStage r m).toNat < m.toNat := by
  rcases Nat.lt_or_ge r.toNat m.toNat with hlt | hge
  · rwa [corrStage_of_lt hlt]
  · rw [corrStage_toNat_of_le hge]
    omega

/-- Settles O23, by the two stages below `3m` and what the first leaves below `2m`. -/
theorem twoStagesReduceBelowThreeModuli : Obligations.TwoStagesReduceBelowThreeModuli := fun _ _ =>
  ⟨correct_toNat, fun h => ⟨corrGe_of_lt (corrStage_lt h), corrStage_of_lt (corrStage_lt h)⟩⟩

/-- The field of `n` bits from bit `k` up is 0 in a value below `2^k`. -/
theorem extractLsb'_eq_zero_of_lt {w : Nat} {x : BitVec w} {k : Nat} (n : Nat) (h : x.toNat < 2 ^ k) :
    x.extractLsb' k n = 0#n := by
  apply BitVec.eq_of_toNat_eq
  rw [BitVec.extractLsb'_toNat, Nat.shiftRight_eq_div_pow, Nat.div_eq_of_lt h]
  rfl

/-- Settles O24: the products are exact at their widths, `q_hat * m` is at most the dividend, and the
corrected remainder is below the modulus. -/
theorem everyIntermediateFitsItsWidth : Obligations.EveryIntermediateFitsItsWidth := by
  intro a mu m
  refine ⟨product_toNat a mu, fun q => estimateProduct_toNat q m, fun hm hmu => ?_⟩
  have hpos : 0 < m.toNat := by omega
  have hP : (product a mu).toNat < 2 ^ 255 := calc
    (product a mu).toNat = a.toNat * mu.toNat := product_toNat a mu
    _ ≤ a.toNat * 2 ^ 127 := Nat.mul_le_mul_left _ (hmu.trans_le (mu_le hm))
    _ < 2 ^ 128 * 2 ^ 127 := Nat.mul_lt_mul_of_pos_right a.isLt (by decide)
    _ = 2 ^ 255 := by decide
  have hT : (estimateProduct (qHat a mu) m).toNat < 2 ^ 128 :=
    ((estimateProduct_toNat _ _).trans_le (qHat_mul_le (e := 0) hmu)).trans_lt a.isLt
  have hr0 : (candidate a mu m).toNat < 2 * m.toNat := candidate_lt (e := 0) hpos hmu
  have hr2 : (correct (candidate a mu m) m).toNat < m.toNat := by
    rw [correct_toNat (by omega)]
    exact Nat.mod_lt _ hpos
  have hr64 := hr2.trans m.isLt
  refine ⟨hP, extractLsb'_eq_zero_of_lt 64 hT, hr2, extractLsb'_eq_zero_of_lt 64 hr64, ?_⟩
  rw [remainder, BitVec.toNat_setWidth, Nat.mod_eq_of_lt hr64]

/-- Settles O25, by the bounds of the estimate and the exactness of the datapath for a constant one too small. -/
theorem twoStagesAbsorbAMuOneTooSmall : Obligations.TwoStagesAbsorbAMuOneTooSmall := by
  intro a mu m hm hmu
  have hpos : 0 < m.toNat := by omega
  exact ⟨qHat_le hpos hmu, div_le_qHat_add hpos hmu, remainder_toNat hpos le_rfl hmu⟩

end Sys2Proof.Machine
end

section
/-! PROOFS. The frame of a command (R8, R17, R33, R84), the edge that runs it (R24), and the ports (R18, R25,
R26). -/

namespace Sys2Proof.Machine

/-! ## What a command reads and writes (R17, R33, R84) -/

theorem State.presenting_of_sameContext {s t : State} (h : SameContext s t) :
    s.presenting t = { s with fsm := .resp, pendRsp := t.pendRsp } := by
  obtain ⟨hmod, hmu, hctx⟩ := h
  rw [State.presenting, ← hmod, ← hmu, ← hctx]

/-- A command writes the context and the response, and nothing else (R17, R24). -/
theorem exec_eq_presenting {i : Instr} {s t : State} (h : exec i s = .next t) : t = s.presenting t :=
  Host.Outcome.next.inj (h.symm.trans (exec_of_sameContext ⟨rfl, rfl, rfl⟩ h))

/-- Settles O29: what a command presents is its outcome, and only `BUILD` writes the context. -/
theorem commandsTouchOnlyContextAndResponse : Obligations.CommandsTouchOnlyContextAndResponse := by
  intro i s t h
  refine ⟨exec_eq_presenting h, fun hi => ?_⟩
  have hs : SameContext s t := (exec_build_or_sameContext h).resolve_left fun ⟨x, m, hxm⟩ => hi x m hxm
  exact (exec_eq_presenting h).trans (State.presenting_of_sameContext hs)

/-- Settles O30: from two states with one context the outcomes present the same. -/
theorem commandsReadOnlyTheContext : Obligations.CommandsReadOnlyTheContext := by
  intro i s s' t t' hmod hmu hctx h h'
  obtain rfl : s'.presenting t = t' :=
    Host.Outcome.next.inj ((exec_of_sameContext ⟨hmod, hmu, hctx⟩ h).symm.trans h')
  exact ⟨rfl, rfl, rfl, rfl⟩

/-! ## Edges (R24, R81) -/

/-- The last `BUSY` edge is the atomic command on the context, with the host's sample consumed (R8, R24). -/
theorem step_eq_exec {s : State} (hf : s.fsm = .busy) (hc : s.cnt + 1 = s.pendLatency)
    (hr : s.sample.rst = false) : step s = exec (decode s.pendReq) s.sampled := by
  obtain ⟨t, hx, hstep, -⟩ := step_commit_of_sample hr hf hc
  rw [hstep, hx]

/-- Settles O31, by the equation of the last `BUSY` edge; `withFetchWord` gives the state before that edge. -/
theorem stepRunsTheAcceptedCommand : Obligations.StepRunsTheAcceptedCommand := by
  refine ⟨fun s i hf hc hr hi => hi ▸ step_eq_exec hf hc hr, fun s nbits w => ?_⟩
  exact step_eq_exec (s := s.withFetchWord nbits w) rfl (Nat.sub_add_cancel (latencyOf_pos _ _)) rfl

/-- Settles O44, by the equation of each edge. -/
theorem noEdgeStopsTheBlock : Obligations.NoEdgeStopsTheBlock := by
  intro s
  cases hr : s.sample.rst with
  | true => exact ⟨_, step_reset_of_sample hr, rfl, rfl, .inl rfl⟩
  | false =>
    cases hf : s.fsm with
    | idle =>
      cases hv : s.sample.reqValid with
      | true => exact ⟨_, step_accept_of_sample hr hf hv, rfl, rfl, .inl rfl⟩
      | false => exact ⟨_, step_wait_of_sample hr hf hv, rfl, rfl, .inl rfl⟩
    | busy =>
      by_cases hc : s.cnt + 1 = s.pendLatency
      · obtain ⟨t, hx, hstep, -⟩ := step_commit_of_sample hr hf hc
        obtain ⟨-, -, -, hlat, hin, htaken⟩ := exec_presents hx
        exact ⟨t, hstep, hlat, hin, .inl htaken⟩
      · exact ⟨_, step_count_of_sample hr hf hc, rfl, rfl, .inl rfl⟩
    | resp =>
      cases hv : s.sample.rspReady with
      | true =>
        have htake := responseTransfers_eq_true_iff.mpr ⟨hv, hf, hr⟩
        exact ⟨_, step_take_of_sample hr hf hv, rfl, rfl, .inr ⟨htake, rfl⟩⟩
      | false => exact ⟨_, step_hold_of_sample hr hf hv, rfl, rfl, .inl rfl⟩

/-! ## The ports (R18, R25, R26) -/

/-- A response word is its two fields and nothing else (R50). -/
theorem rspFields (r : RspWord) : rspStatusOf r ++ rspResultOf r = r :=
  (BitVec.extractLsb'_append_extractLsb'_eq_extractLsb' rfl).trans BitVec.extractLsb'_eq_self

/-- Without a presented response the response fields are 0 (R25). -/
theorem outputs_of_not_rspValid {rst : Bool} {s : State} (h : rspValid rst s = false) :
    (outputs rst s).rspStatus = 0#2 ∧ (outputs rst s).rspResult = 0#64 := by
  simp [outputs, h]

/-- Settles O38, by when `req_ready` and `rsp_valid` are 1 and what the ports show in `RESP`. -/
theorem outputsFollowTheState : Obligations.OutputsFollowTheState := by
  intro s
  have hReady : reqReady false s = true ↔ s.fsm = .idle := reqReady_eq_true_iff.trans (and_iff_left rfl)
  have hValid : rspValid false s = true ↔ s.fsm = .resp := rspValid_eq_true_iff.trans (and_iff_left rfl)
  refine ⟨hReady, hValid, rfl, fun h => ?_, outputs_of_not_rspValid⟩
  rw [outputs_of_resp (hValid.mp h)]
  exact rspFields s.pendRsp

/-- Settles O39: no output reads `MOD` or `MU`. -/
theorem contextIsOpaqueOnThePorts : Obligations.ContextIsOpaqueOnThePorts := fun _ _ _ _ => rfl

end Sys2Proof.Machine
end

section
/-! PROOFS. The invariant of the machine (R16, R23, R87): it holds at reset, every edge keeps it, and so every
answer a run from reset presents is right. -/

namespace Sys2Proof.Machine

/-! ## The invariant at reset -/

/-- The invariant speaks of the registers only, so it holds at reset whatever the host has to come and has
taken. -/
theorem inv_resetWith (l : Latencies) (ps : List PortIn) (rs : List RspWord) :
    Inv { State.resetWith l with inputs := ps, taken := rs } :=
  ⟨.inr ⟨rfl, rfl, rfl⟩, latencyOf_pos l _, nofun⟩

/-- Settles O41: nothing has been taken yet. -/
theorem resetHasTheInvariant : Obligations.ResetHasTheInvariant := fun l ps => inv_resetWith l ps []

/-! ## The invariant at the committing edge -/

section commit

variable {s t : State}

theorem contextInv_of_sameContext (hs : SameContext s t) (h : ContextInv s) : ContextInv t := by
  obtain ⟨hmod, hmu, hctx⟩ := hs
  rwa [ContextInv, State.holdsContext, hmod, hmu, hctx] at h

/-- A command leaves a context that is exact or cleared: a `BUILD` writes one, any other leaves it (R17). -/
theorem exec_contextInv {i : Instr} (h : exec i s = .next t) (hInv : ContextInv s) : ContextInv t := by
  rcases exec_build_or_sameContext h with ⟨x, m, rfl⟩ | hs
  · rcases Nat.lt_or_ge m.toNat 2 with hm | hm
    · cases (exec_build_of_lt hm x s).symm.trans h
      exact .inr ⟨rfl, rfl, rfl⟩
    · cases (exec_build_of_le hm x s).symm.trans h
      exact .inl (holdsContext_of_build hm s .ok 0#64)
  · exact contextInv_of_sameContext hs hInv

/-- A command presents the response that it and the context it leaves call for (R51, R52, R82). -/
theorem exec_responseInv (h : exec (decode t.pendReq) s = .next t) (hInv : ContextInv s) : ResponseInv t := by
  intro _
  generalize decode t.pendReq = i at h
  cases i with
  | build x m =>
    refine ⟨fun hm => ?_, fun hm => ?_⟩
    · cases (exec_build_of_lt hm x s).symm.trans h
      exact ⟨rfl, rfl⟩
    · cases (exec_build_of_le hm x s).symm.trans h
      exact ⟨rfl, rfl, rfl⟩
  | reduce aHi aLo =>
    obtain ⟨-, -, hctx⟩ := exec_reduce_sameContext h
    refine ⟨fun hc => ?_, fun hc => ?_⟩
    · cases (exec_reduce_of_invalid (hctx.trans hc) aHi aLo).symm.trans h
      rfl
    · have hs := holdsContext_of_contextInv hInv (hctx.trans hc)
      cases (exec_reduce_of_valid (hctx.trans hc) aHi aLo).symm.trans h
      rw [State.respond_pendRsp, rspStatusOf_mkRsp, rspResultOf_mkRsp]
      exact ⟨rfl, remainder_of_holdsContext hs aHi aLo⟩
  | reserved00 x y =>
    cases (exec_reserved00 x y s).symm.trans h
    rfl
  | reserved11 x y =>
    cases (exec_reserved11 x y s).symm.trans h
    rfl

/-- The committing edge keeps the counter and the latched word, and a command brings the rest. -/
theorem exec_inv (h : exec (decode s.pendReq) s = .next t) (hInv : Inv s) : Inv t := by
  obtain ⟨hctx, hseq, -⟩ := hInv
  obtain ⟨-, hreq, hcnt, hlat, -, -⟩ := exec_presents h
  refine ⟨exec_contextInv h hctx, ?_, exec_responseInv (hreq ▸ h) hctx⟩
  rwa [SequencerInv, State.pendLatency, hreq, hcnt, hlat]

/-! ## Every edge -/

/-- A response stands in `RESP` only. -/
theorem responseInv_of_ne_resp (h : s.fsm ≠ .resp) : ResponseInv s := fun hf => absurd hf h

/-- The invariant does not speak of the host's coming samples. -/
theorem inv_sampled (h : Inv s) : Inv s.sampled := h

theorem step_inv (hInv : Inv s) (h : step s = .next t) : Inv t := by
  have ⟨hctx, hseq, hrsp⟩ := hInv
  rcases step_cases h with ⟨-, rfl⟩ | ⟨-, -, -, rfl⟩ | ⟨-, -, -, rfl⟩ | ⟨-, -, -, hx⟩ | ⟨-, hf, hc, rfl⟩ |
    ⟨-, -, -, rfl⟩ | ⟨-, -, -, rfl⟩
  · exact inv_resetWith s.lat s.inputs.tail s.taken
  · exact ⟨hctx, latencyOf_pos s.lat _, responseInv_of_ne_resp nofun⟩
  · exact inv_sampled hInv
  · exact exec_inv hx (inv_sampled hInv)
  · exact ⟨hctx, lt_of_le_of_ne hseq hc, responseInv_of_ne_resp (by simp [hf])⟩
  · exact ⟨hctx, hseq, responseInv_of_ne_resp nofun⟩
  · exact inv_sampled hInv

theorem run_inv {k : Nat} (hInv : Inv s) (h : Sys2Proof.core.run k s = .next t) : Inv t := by
  induction k generalizing s with
  | zero =>
    cases h
    exact hInv
  | succ k ih =>
    obtain ⟨u, hstep, hrun⟩ := exists_step_of_run_succ h
    exact ih (step_inv hInv hstep) hrun

end commit

/-- Settles O40, by the cases of an edge. -/
theorem everyEdgeKeepsTheInvariant : Obligations.EveryEdgeKeepsTheInvariant := fun _ _ => step_inv

/-! ## What the invariant says of a presented `OK` (R87) -/

/-- `OK` stands beside a valid context, and for a `REDUCE` beside the exact remainder. -/
theorem responseInv_ok {s : State} (h : ResponseInv s) (hf : s.fsm = .resp)
    (hok : rspStatusOf s.pendRsp = Status.ok.code) :
    s.ctxValid = true ∧ ∀ aHi aLo, decode s.pendReq = .reduce aHi aLo →
      (rspResultOf s.pendRsp).toNat = (aHi.toNat * 2 ^ 64 + aLo.toNat) % s.mod.toNat := by
  have hRsp := h hf
  have hnot : ∀ st : Status, st ≠ .ok → s.pendRsp ≠ mkRsp st 0#64 := fun st hst hrsp =>
    hst (code_inj.mp ((rspStatusOf_mkRsp st 0#64).symm.trans ((congrArg rspStatusOf hrsp).symm.trans hok)))
  generalize decode s.pendReq = i at hRsp ⊢
  cases i with
  | build x m =>
    obtain ⟨hlt, hge⟩ := hRsp
    rcases Nat.lt_or_ge m.toNat 2 with hm | hm
    · exact absurd (hlt hm).2 (hnot .invalidModulus nofun)
    · exact ⟨(hge hm).1, nofun⟩
  | reduce aHi aLo =>
    obtain ⟨hInvalid, hValid⟩ := hRsp
    cases hc : s.ctxValid with
    | false => exact absurd (hInvalid hc) (hnot .noContext nofun)
    | true =>
      refine ⟨rfl, fun _ _ hi => ?_⟩
      cases hi
      exact (hValid hc).2
  | reserved00 x y => exact absurd hRsp (hnot .illegalOp nofun)
  | reserved11 x y => exact absurd hRsp (hnot .illegalOp nofun)

/-- Settles O42, by the invariant along the run from reset. -/
theorem everyReachableAnswerIsRight : Obligations.EveryReachableAnswerIsRight := by
  intro l ps k t hrun
  obtain ⟨hctx, -, hrsp⟩ := run_inv (inv_resetWith l ps []) hrun
  refine ⟨fun hc => ?_, fun hv hok => ?_⟩
  · obtain ⟨-, hm, hmu⟩ := holdsContext_of_contextInv hctx hc
    exact ⟨hm, Nat.le_pred_of_lt t.mod.isLt, hmu⟩
  · obtain ⟨hf, -⟩ := rspValid_eq_true_iff.mp hv
    rw [outputs_of_resp hf] at hok ⊢
    exact responseInv_ok hrsp hf hok

end Sys2Proof.Machine
end

section
/-! PROOFS. A served stream of commands is its atomic commands in order (R8, R35). -/

namespace Sys2Proof.Machine

/-- The samples of a host that serves one command: the request, its latency and stall, and the take. -/
theorem serveOne_length (l : Latencies) (w : ReqWord) (stall : Nat) :
    (serveOne l w stall).length = latencyOf l (reqOp w) + stall + 2 := by
  simp [serveOne]

/-- A host that serves one command brings it from `IDLE` to `IDLE`, with the context of its `exec` and its
response taken: the handshake, with quiet samples for its `BUSY` and its stall. -/
theorem run_serveOne {s t : State} {w : ReqWord} {stall : Nat} {rest : List PortIn}
    (hx : exec (decode w) s = .next t) (hf : s.fsm = .idle) (hi : s.inputs = serveOne s.lat w stall ++ rest) :
    ∃ u, Sys2Proof.core.run (serveOne s.lat w stall).length s = .next u ∧ SameContext t u ∧ u.fsm = .idle ∧
      u.lat = s.lat ∧ u.inputs = rest ∧ u.taken = s.taken ++ [t.pendRsp] := by
  have hquiet : ∀ n, ∀ q ∈ List.replicate n PortIn.quiet, q = PortIn.quiet := fun _ _ =>
    List.eq_of_mem_replicate
  have hin : s.inputs = presentRequest w :: (List.replicate (latencyOf s.lat (reqOp w)) PortIn.quiet ++
      List.replicate stall PortIn.quiet ++ takeResponse :: rest) := by
    rw [hi, serveOne, List.replicate_append_replicate]
    simp
  have hrun := run_handshake hx hf hin rfl rfl (presentRequest_word w)
    (by rw [List.replicate_append_replicate]; exact fun q hq => hquiet _ q hq ▸ rfl)
    List.length_replicate (fun q hq => hquiet _ q hq ▸ rfl) rfl rfl
  rw [List.length_replicate, List.length_replicate, ← serveOne_length] at hrun
  exact ⟨_, hrun, ⟨rfl, rfl, rfl⟩, rfl, rfl, rfl, rfl⟩

/-- A served stream from `IDLE`. The atomic commands start at any state `c` with the machine's context: between
two commands the machine and the transaction level share the context only. -/
theorem run_serveAll {cs : List (ReqWord × Nat)} {c s : State} {rest : List PortIn} (hs : SameContext c s)
    (hf : s.fsm = .idle) (hi : s.inputs = serveAll s.lat cs ++ rest) :
    ∃ t u, execWords (cs.map Prod.fst) c = .next t ∧
      Sys2Proof.core.run (serveAll s.lat cs).length s = .next u ∧ SameContext t u ∧ u.fsm = .idle ∧
      u.inputs = rest ∧ u.taken = s.taken ++ responsesOf (cs.map Prod.fst) c := by
  induction cs generalizing c s with
  | nil => exact ⟨c, s, rfl, rfl, hs, hf, hi, (List.append_nil _).symm⟩
  | cons cmd cs ih =>
    obtain ⟨w, stall⟩ := cmd
    obtain ⟨t, hx⟩ := exec_total (decode w) c
    rw [serveAll, List.append_assoc] at hi
    obtain ⟨u, hrun, hsu, hfu, hlat, hiu, htaken⟩ := run_serveOne (exec_of_sameContext hs hx) hf hi
    obtain ⟨t', u', hwords, hrun', hsu', hfu', hiu', htaken'⟩ := ih (c := t) hsu hfu (hlat ▸ hiu)
    refine ⟨t', u', (execWords_cons hx _).trans hwords, ?_, hsu', hfu', hiu', ?_⟩
    · rw [serveAll, List.length_append, run_add _ _ hrun, ← hlat, hrun']
    · rw [htaken', htaken, List.map_cons, responsesOf_cons hx, List.append_assoc]
      rfl

/-- Settles O46, by induction over the stream, from the machine's own state. -/
theorem commandStreamExecutesInOrder : Obligations.CommandStreamExecutesInOrder := by
  intro s cs rest hf hi
  obtain ⟨t, u, hwords, hrun, ⟨hmod, hmu, hctx⟩, hfu, hiu, htaken⟩ := run_serveAll ⟨rfl, rfl, rfl⟩ hf hi
  exact ⟨t, u, hwords, hrun, hmod.symm, hmu.symm, hctx.symm, hfu, hiu, htaken⟩

end Sys2Proof.Machine
end
